-- ==== Sys2Proof/Word.lean ====
section
/-!
DEFINITION. The two word types of the hardware (R6: data width 8 bits, address width 16 bits).
Helpers over them (byte order, sign extension, bit fields) stand where they are used, in Decode.lean and Machine/.
-/

namespace Sys2Proof

/-- `u8` of R7: a data byte, and a byte of an instruction. -/
abbrev Byte := BitVec 8

/-- `u16` of R7: an address, and the program counter. -/
abbrev Word := BitVec 16

end Sys2Proof
end

