-- ==== Sys2Proof/Config.lean ====
section
/-!
DEFINITION. The parameters of R6: constants, the configuration with its defaults, and the functions given at launch.

The parameters R6 marks `constant` are definitions with the value R6 gives. The ones it marks `config` are the fields of
`Configuration`, whose defaults are the values R6 gives; a machine carries its configuration in `Machine.State`, given
at launch, and no step changes it. The ones it marks `launch` are data of `Machine.State`, given at launch.
The functions among them (the hooks of the register window, R34, and of a stateful mapper, R39) are `Device` and
`MapperDevice`: a number that says which of a family of free functions is meant, and rows that give their values where
the launch states them. The families are opaque: nothing in Lean can evaluate them, so whatever is proved holds for
every device and every mapper that keep their contract. DESIGN CHOICE, safe (log entries 3 and 4).
-/

namespace Sys2Proof

/-! ### Constants -/

/-- The reset vector: the address of its low byte (R6 `RESET_VECTOR`). -/
def Config.resetVector : Word := 0xFFFC

/-- `P` after reset (R6 `RESET_P`, D11). -/
def Config.resetP : Byte := 0x34

/-- `cycles` after reset (R6 `RESET_CYCLES`). -/
def Config.resetCycles : Nat := 7

/-- The cost of an unknown opcode (R6 `UNKNOWN_CYCLES`). -/
def Config.unknownCycles : Nat := 2

/-- What a mapper read beyond the ROM buffer returns (R6 `MAPPER_FILL`, R41). -/
def Config.mapperFill : Byte := 0x00

/-- What an unmapped read returns (R6 `UNMAPPED_READ`, R35). -/
def Config.unmappedRead : Byte := 0x00

/-! ### The opcode table and the configuration -/

/-- The 56 mnemonics of R71 and the sentinel. -/
inductive Mnemonic where
  | lda | ldx | ldy | sta | stx | sty | tax | tay | txa | tya | tsx | txs | adc | sbc
  | and | ora | eor | cmp | cpx | cpy | bit | inc | dec | inx | iny | dex | dey | asl
  | lsr | rol | ror | jmp | jsr | rts | bcc | bcs | beq | bne | bmi | bpl | bvc | bvs
  | pha | php | pla | plp | clc | sec | cli | sei | cld | sed | clv | nop | brk | rti
  | unknown
  deriving DecidableEq, Repr

/-- The thirteen addressing modes of R61, and UNK for the unknown opcode. -/
inductive Mode where
  | imp | acc | imm | zp | zpx | zpy | rel | izx | izy | abs | abx | aby | ind | unk
  deriving DecidableEq, Repr

/-- The penalty class of an opcode (R64): what R99 may add to the base cost. -/
inductive Penalty where
  | none | pageCross | branch
  deriving DecidableEq, Repr

/-- The definition an opcode byte decodes to (R29, R64): the byte, its mnemonic, which names its behaviour, its addressing
mode, base cost and penalty class. -/
structure InstructionDef where
  opcode : Byte
  mnemonic : Mnemonic
  mode : Mode
  baseCycles : Nat
  penalty : Penalty
  deriving DecidableEq, Repr

/-- The parameters R6 marks `config`, each with its default. `OPCODE_TABLE` is given by the definitions in which it
differs from the default table, the 151 rows of R65: any table of R63 is one of these, with a row for every byte it
changes. -/
structure Configuration where
  /-- `BRK_VECTOR`: the address of the low byte (D7); the high byte is at the next one -/
  brkVector : Word := 0xFFFE
  /-- `RESET_S`: `S` after reset (D11) -/
  resetS : Byte := 0xFD
  /-- `SENTINEL_MNEMONIC`: the mnemonic of an unknown opcode in an audit record (D4) -/
  sentinelMnemonic : String := "???"
  /-- `BRANCH_CROSS_EXTRA`: the further cycle of a taken branch into another page (D5) -/
  branchCrossExtra : Nat := 1
  /-- `OPCODE_TABLE` (D1, D2, D3): the definitions that are not those of the default table; the first row of a byte is
  its definition, and a byte without a row has that of the default table -/
  opcodes : List InstructionDef := []
  deriving DecidableEq, Repr

/-- The configuration with every parameter at the value R6 gives. -/
def Config.default : Configuration := {}

/-! ### Functions given at launch -/

/-- The state of a device plugged into the register window (R26), as plain data: the spec gives it no shape. -/
abbrev DevState := List Byte

/-- One value of `DevRead` (R34): in device state `dev` a read of `addr` gives `value` and leaves `next`. -/
structure DevReadRow where
  dev : DevState
  addr : Word
  value : Byte
  next : DevState
  deriving DecidableEq, Repr

/-- One value of `DevWrite` (R34): in device state `dev` a write of `value` to `addr` leaves `next`. -/
structure DevWriteRow where
  dev : DevState
  addr : Word
  value : Byte
  next : DevState
  deriving DecidableEq, Repr

/-- A device (R6 `DEVICE`, R34): its hooks `DevRead` and `DevWrite`, as the first row that matches says, and where none
does as the member `id` of the families below does. -/
structure Device where
  id : Nat := 0
  reads : List DevReadRow := []
  writes : List DevWriteRow := []
  deriving DecidableEq, Repr

/-- `DevRead` of R34, one function for each device: the byte read and the device state after it. Free: every
deterministic device (R211). -/
opaque Config.devRead : Nat → DevState → Word → Byte × DevState

/-- `DevWrite` of R34, one function for each device: the device state after a write. Free. -/
opaque Config.devWrite : Nat → DevState → Word → Byte → DevState

/-- The state of a mapper other than the fixed-ROM mapper (R25, R39), as plain data. -/
abbrev MapperState := List Byte

/-- One value of `cpuRead` (R39). -/
structure MapperReadRow where
  ms : MapperState
  addr : Word
  value : Byte
  deriving DecidableEq, Repr

/-- One value of `cpuWrite` (R39). -/
structure MapperWriteRow where
  ms : MapperState
  addr : Word
  value : Byte
  next : MapperState
  deriving DecidableEq, Repr

/-- The functions of a mapper other than the fixed-ROM mapper (R6 `MAPPER`, R39): `cpuRead` and `cpuWrite`, as the first
row that matches says, and where none does as the member `id` of the families below does. -/
structure MapperDevice where
  id : Nat := 0
  reads : List MapperReadRow := []
  writes : List MapperWriteRow := []
  deriving DecidableEq, Repr

/-- `cpuRead` of such a mapper (R39), one function for each mapper: a function of its state and the address. Free. -/
opaque Config.mapperRead : Nat → MapperState → Word → Byte

/-- `cpuWrite` of such a mapper (R39), one function for each mapper: its state after a write. Free. -/
opaque Config.mapperWrite : Nat → MapperState → Word → Byte → MapperState

end Sys2Proof
end

