-- ==== Sys2Proof/Syntax.lean ====
section
/-!
DEFINITION. The instructions: one constructor per supported row of `spec/opcode_table.json` (R65, R72), with its
operand as the assembled value (R62), and one constructor for the 105 rows of the sentinel `???` (R67), which all
share one definition and differ only in the byte they are read from: DESIGN CHOICE, safe (log entry 16).
A constructor is named by its mnemonic and, where the mnemonic has more than one form, its addressing mode (R61).
-/

namespace Sys2Proof

/-- The instruction set of R65: 151 supported forms and the unknown opcode. -/
inductive Instr where
  -- LDA: R110
  | ldaImm (v : Byte)
  | ldaZp (b : Byte)
  | ldaZpx (b : Byte)
  | ldaAbs (a : Word)
  | ldaAbx (a : Word)
  | ldaAby (a : Word)
  | ldaIzx (b : Byte)
  | ldaIzy (b : Byte)
  -- LDX: R111
  | ldxImm (v : Byte)
  | ldxZp (b : Byte)
  | ldxZpy (b : Byte)
  | ldxAbs (a : Word)
  | ldxAby (a : Word)
  -- LDY: R112
  | ldyImm (v : Byte)
  | ldyZp (b : Byte)
  | ldyZpx (b : Byte)
  | ldyAbs (a : Word)
  | ldyAbx (a : Word)
  -- STA: R113
  | staZp (b : Byte)
  | staZpx (b : Byte)
  | staAbs (a : Word)
  | staAbx (a : Word)
  | staAby (a : Word)
  | staIzx (b : Byte)
  | staIzy (b : Byte)
  -- STX: R114
  | stxZp (b : Byte)
  | stxZpy (b : Byte)
  | stxAbs (a : Word)
  -- STY: R115
  | styZp (b : Byte)
  | styZpx (b : Byte)
  | styAbs (a : Word)
  -- TAX: R116
  | tax
  -- TAY: R117
  | tay
  -- TXA: R118
  | txa
  -- TYA: R119
  | tya
  -- TSX: R120
  | tsx
  -- TXS: R121
  | txs
  -- ADC: R130
  | adcImm (v : Byte)
  | adcZp (b : Byte)
  | adcZpx (b : Byte)
  | adcAbs (a : Word)
  | adcAbx (a : Word)
  | adcAby (a : Word)
  | adcIzx (b : Byte)
  | adcIzy (b : Byte)
  -- SBC: R131
  | sbcImm (v : Byte)
  | sbcZp (b : Byte)
  | sbcZpx (b : Byte)
  | sbcAbs (a : Word)
  | sbcAbx (a : Word)
  | sbcAby (a : Word)
  | sbcIzx (b : Byte)
  | sbcIzy (b : Byte)
  -- AND: R132
  | andImm (v : Byte)
  | andZp (b : Byte)
  | andZpx (b : Byte)
  | andAbs (a : Word)
  | andAbx (a : Word)
  | andAby (a : Word)
  | andIzx (b : Byte)
  | andIzy (b : Byte)
  -- ORA: R133
  | oraImm (v : Byte)
  | oraZp (b : Byte)
  | oraZpx (b : Byte)
  | oraAbs (a : Word)
  | oraAbx (a : Word)
  | oraAby (a : Word)
  | oraIzx (b : Byte)
  | oraIzy (b : Byte)
  -- EOR: R134
  | eorImm (v : Byte)
  | eorZp (b : Byte)
  | eorZpx (b : Byte)
  | eorAbs (a : Word)
  | eorAbx (a : Word)
  | eorAby (a : Word)
  | eorIzx (b : Byte)
  | eorIzy (b : Byte)
  -- CMP: R135
  | cmpImm (v : Byte)
  | cmpZp (b : Byte)
  | cmpZpx (b : Byte)
  | cmpAbs (a : Word)
  | cmpAbx (a : Word)
  | cmpAby (a : Word)
  | cmpIzx (b : Byte)
  | cmpIzy (b : Byte)
  -- CPX: R136
  | cpxImm (v : Byte)
  | cpxZp (b : Byte)
  | cpxAbs (a : Word)
  -- CPY: R137
  | cpyImm (v : Byte)
  | cpyZp (b : Byte)
  | cpyAbs (a : Word)
  -- BIT: R138
  | bitZp (b : Byte)
  | bitAbs (a : Word)
  -- INC: R139
  | incZp (b : Byte)
  | incZpx (b : Byte)
  | incAbs (a : Word)
  | incAbx (a : Word)
  -- DEC: R140
  | decZp (b : Byte)
  | decZpx (b : Byte)
  | decAbs (a : Word)
  | decAbx (a : Word)
  -- INX: R141
  | inx
  -- INY: R142
  | iny
  -- DEX: R143
  | dex
  -- DEY: R144
  | dey
  -- ASL: R150
  | aslAcc
  | aslZp (b : Byte)
  | aslZpx (b : Byte)
  | aslAbs (a : Word)
  | aslAbx (a : Word)
  -- LSR: R151
  | lsrAcc
  | lsrZp (b : Byte)
  | lsrZpx (b : Byte)
  | lsrAbs (a : Word)
  | lsrAbx (a : Word)
  -- ROL: R152
  | rolAcc
  | rolZp (b : Byte)
  | rolZpx (b : Byte)
  | rolAbs (a : Word)
  | rolAbx (a : Word)
  -- ROR: R153
  | rorAcc
  | rorZp (b : Byte)
  | rorZpx (b : Byte)
  | rorAbs (a : Word)
  | rorAbx (a : Word)
  -- JMP: R160
  | jmpAbs (a : Word)
  | jmpInd (a : Word)
  -- JSR: R161
  | jsr (a : Word)
  -- RTS: R162
  | rts
  -- BCC: R164
  | bcc (d : Byte)
  -- BCS: R165
  | bcs (d : Byte)
  -- BEQ: R166
  | beq (d : Byte)
  -- BNE: R167
  | bne (d : Byte)
  -- BMI: R168
  | bmi (d : Byte)
  -- BPL: R169
  | bpl (d : Byte)
  -- BVC: R170
  | bvc (d : Byte)
  -- BVS: R171
  | bvs (d : Byte)
  -- PHA: R180
  | pha
  -- PHP: R181
  | php
  -- PLA: R182
  | pla
  -- PLP: R183
  | plp
  -- CLC: R184
  | clc
  -- SEC: R185
  | sec
  -- CLI: R186
  | cli
  -- SEI: R187
  | sei
  -- CLD: R188
  | cld
  -- SED: R189
  | sed
  -- CLV: R190
  | clv
  -- NOP: R191
  | nop
  -- BRK: R192
  | brk
  -- RTI: R193
  | rti
  -- ???: R194, any of the 105 bytes of R67
  | unknown (op : Byte)
  deriving DecidableEq, Repr

end Sys2Proof
end

