-- ==== Sys2Proof/Decode.lean ====
section
/-!
DEFINITION. The instruction decoder (DEC) and the encoder.
`Instr.form` is the opcode table of R65 and R72 read from the instruction's side (opcode byte, mnemonic, operand, base
cost, penalty class); `assemble` is the same table read from the opcode byte's side (R63). Both are written out from
the spec; that they agree is a statement, not a definition.
Both are the default table; the configured one (R6 `OPCODE_TABLE`) and what the rules ask of it are said after them.
-/

namespace Sys2Proof

/-- The text of a mnemonic (R71): three upper-case letters, or the sentinel text of the default configuration. -/
def Mnemonic.text : Mnemonic → String
  | .lda => "LDA" | .ldx => "LDX" | .ldy => "LDY" | .sta => "STA"
  | .stx => "STX" | .sty => "STY" | .tax => "TAX" | .tay => "TAY"
  | .txa => "TXA" | .tya => "TYA" | .tsx => "TSX" | .txs => "TXS"
  | .adc => "ADC" | .sbc => "SBC" | .and => "AND" | .ora => "ORA"
  | .eor => "EOR" | .cmp => "CMP" | .cpx => "CPX" | .cpy => "CPY"
  | .bit => "BIT" | .inc => "INC" | .dec => "DEC" | .inx => "INX"
  | .iny => "INY" | .dex => "DEX" | .dey => "DEY" | .asl => "ASL"
  | .lsr => "LSR" | .rol => "ROL" | .ror => "ROR" | .jmp => "JMP"
  | .jsr => "JSR" | .rts => "RTS" | .bcc => "BCC" | .bcs => "BCS"
  | .beq => "BEQ" | .bne => "BNE" | .bmi => "BMI" | .bpl => "BPL"
  | .bvc => "BVC" | .bvs => "BVS" | .pha => "PHA" | .php => "PHP"
  | .pla => "PLA" | .plp => "PLP" | .clc => "CLC" | .sec => "SEC"
  | .cli => "CLI" | .sei => "SEI" | .cld => "CLD" | .sed => "SED"
  | .clv => "CLV" | .nop => "NOP" | .brk => "BRK" | .rti => "RTI"
  | .unknown => Config.default.sentinelMnemonic

/-- The instruction length a mode fixes (R61, R69), in bytes. -/
def Mode.length : Mode → Nat
  | .imp | .acc | .unk => 1
  | .imm | .zp | .zpx | .zpy | .rel | .izx | .izy => 2
  | .abs | .abx | .aby | .ind => 3

/-- An operand as the decoder assembles it (R62): the mode and its operand byte or little-endian word. -/
inductive Operand where
  | imp
  | acc
  | imm (v : Byte)
  | zp (b : Byte)
  | zpx (b : Byte)
  | zpy (b : Byte)
  | rel (d : Byte)
  | izx (b : Byte)
  | izy (b : Byte)
  | abs (a : Word)
  | abx (a : Word)
  | aby (a : Word)
  | ind (a : Word)
  | unk
  deriving DecidableEq, Repr

/-- The addressing mode of an operand. -/
def Operand.mode : Operand → Mode
  | .imp => .imp | .acc => .acc | .imm _ => .imm | .zp _ => .zp | .zpx _ => .zpx | .zpy _ => .zpy | .rel _ => .rel
  | .izx _ => .izx | .izy _ => .izy | .abs _ => .abs | .abx _ => .abx | .aby _ => .aby | .ind _ => .ind | .unk => .unk

/-- `hi:lo`, the 16-bit quantity of two bytes (R7). -/
def joinBytes (hi lo : Byte) : Word := hi ++ lo

/-- The low byte of a word. -/
def lowByte (w : Word) : Byte := w.setWidth 8

/-- The high byte of a word. -/
def highByte (w : Word) : Byte := (w >>> 8).setWidth 8

/-- The operand bytes that follow the opcode, at ascending addresses; a word is little-endian (R48, R61). -/
def Operand.bytes : Operand → List Byte
  | .imp | .acc | .unk => []
  | .imm b | .zp b | .zpx b | .zpy b | .rel b | .izx b | .izy b => [b]
  | .abs a | .abx a | .aby a | .ind a => [lowByte a, highByte a]

/-- The operand a mode assembles from the two bytes after the opcode (R61, R62). -/
def Mode.assembled (m : Mode) (b1 b2 : Byte) : Operand :=
  match m with
  | .imp => .imp
  | .acc => .acc
  | .unk => .unk
  | .imm => .imm b1
  | .zp => .zp b1
  | .zpx => .zpx b1
  | .zpy => .zpy b1
  | .rel => .rel b1
  | .izx => .izx b1
  | .izy => .izy b1
  | .abs => .abs (joinBytes b2 b1)
  | .abx => .abx (joinBytes b2 b1)
  | .aby => .aby (joinBytes b2 b1)
  | .ind => .ind (joinBytes b2 b1)

/-- One row of the default table (R64), with the operand of one instruction in place of its mode. -/
structure Form where
  opcode : Byte
  mnemonic : Mnemonic
  operand : Operand
  baseCycles : Nat
  penalty : Penalty
  deriving DecidableEq, Repr

/-- The row of each instruction: R72 (opcode, mode, base cost) with the penalty classes of R65 and R66. -/
def Instr.form : Instr → Form
  | .ldaImm v => ⟨0xA9, .lda, .imm v, 2, .none⟩
  | .ldaZp b => ⟨0xA5, .lda, .zp b, 3, .none⟩
  | .ldaZpx b => ⟨0xB5, .lda, .zpx b, 4, .none⟩
  | .ldaAbs a => ⟨0xAD, .lda, .abs a, 4, .none⟩
  | .ldaAbx a => ⟨0xBD, .lda, .abx a, 4, .pageCross⟩
  | .ldaAby a => ⟨0xB9, .lda, .aby a, 4, .pageCross⟩
  | .ldaIzx b => ⟨0xA1, .lda, .izx b, 6, .none⟩
  | .ldaIzy b => ⟨0xB1, .lda, .izy b, 5, .pageCross⟩
  | .ldxImm v => ⟨0xA2, .ldx, .imm v, 2, .none⟩
  | .ldxZp b => ⟨0xA6, .ldx, .zp b, 3, .none⟩
  | .ldxZpy b => ⟨0xB6, .ldx, .zpy b, 4, .none⟩
  | .ldxAbs a => ⟨0xAE, .ldx, .abs a, 4, .none⟩
  | .ldxAby a => ⟨0xBE, .ldx, .aby a, 4, .pageCross⟩
  | .ldyImm v => ⟨0xA0, .ldy, .imm v, 2, .none⟩
  | .ldyZp b => ⟨0xA4, .ldy, .zp b, 3, .none⟩
  | .ldyZpx b => ⟨0xB4, .ldy, .zpx b, 4, .none⟩
  | .ldyAbs a => ⟨0xAC, .ldy, .abs a, 4, .none⟩
  | .ldyAbx a => ⟨0xBC, .ldy, .abx a, 4, .pageCross⟩
  | .staZp b => ⟨0x85, .sta, .zp b, 3, .none⟩
  | .staZpx b => ⟨0x95, .sta, .zpx b, 4, .none⟩
  | .staAbs a => ⟨0x8D, .sta, .abs a, 4, .none⟩
  | .staAbx a => ⟨0x9D, .sta, .abx a, 5, .none⟩
  | .staAby a => ⟨0x99, .sta, .aby a, 5, .none⟩
  | .staIzx b => ⟨0x81, .sta, .izx b, 6, .none⟩
  | .staIzy b => ⟨0x91, .sta, .izy b, 6, .none⟩
  | .stxZp b => ⟨0x86, .stx, .zp b, 3, .none⟩
  | .stxZpy b => ⟨0x96, .stx, .zpy b, 4, .none⟩
  | .stxAbs a => ⟨0x8E, .stx, .abs a, 4, .none⟩
  | .styZp b => ⟨0x84, .sty, .zp b, 3, .none⟩
  | .styZpx b => ⟨0x94, .sty, .zpx b, 4, .none⟩
  | .styAbs a => ⟨0x8C, .sty, .abs a, 4, .none⟩
  | .tax => ⟨0xAA, .tax, .imp, 2, .none⟩
  | .tay => ⟨0xA8, .tay, .imp, 2, .none⟩
  | .txa => ⟨0x8A, .txa, .imp, 2, .none⟩
  | .tya => ⟨0x98, .tya, .imp, 2, .none⟩
  | .tsx => ⟨0xBA, .tsx, .imp, 2, .none⟩
  | .txs => ⟨0x9A, .txs, .imp, 2, .none⟩
  | .adcImm v => ⟨0x69, .adc, .imm v, 2, .none⟩
  | .adcZp b => ⟨0x65, .adc, .zp b, 3, .none⟩
  | .adcZpx b => ⟨0x75, .adc, .zpx b, 4, .none⟩
  | .adcAbs a => ⟨0x6D, .adc, .abs a, 4, .none⟩
  | .adcAbx a => ⟨0x7D, .adc, .abx a, 4, .pageCross⟩
  | .adcAby a => ⟨0x79, .adc, .aby a, 4, .pageCross⟩
  | .adcIzx b => ⟨0x61, .adc, .izx b, 6, .none⟩
  | .adcIzy b => ⟨0x71, .adc, .izy b, 5, .pageCross⟩
  | .sbcImm v => ⟨0xE9, .sbc, .imm v, 2, .none⟩
  | .sbcZp b => ⟨0xE5, .sbc, .zp b, 3, .none⟩
  | .sbcZpx b => ⟨0xF5, .sbc, .zpx b, 4, .none⟩
  | .sbcAbs a => ⟨0xED, .sbc, .abs a, 4, .none⟩
  | .sbcAbx a => ⟨0xFD, .sbc, .abx a, 4, .pageCross⟩
  | .sbcAby a => ⟨0xF9, .sbc, .aby a, 4, .pageCross⟩
  | .sbcIzx b => ⟨0xE1, .sbc, .izx b, 6, .none⟩
  | .sbcIzy b => ⟨0xF1, .sbc, .izy b, 5, .pageCross⟩
  | .andImm v => ⟨0x29, .and, .imm v, 2, .none⟩
  | .andZp b => ⟨0x25, .and, .zp b, 3, .none⟩
  | .andZpx b => ⟨0x35, .and, .zpx b, 4, .none⟩
  | .andAbs a => ⟨0x2D, .and, .abs a, 4, .none⟩
  | .andAbx a => ⟨0x3D, .and, .abx a, 4, .pageCross⟩
  | .andAby a => ⟨0x39, .and, .aby a, 4, .pageCross⟩
  | .andIzx b => ⟨0x21, .and, .izx b, 6, .none⟩
  | .andIzy b => ⟨0x31, .and, .izy b, 5, .pageCross⟩
  | .oraImm v => ⟨0x09, .ora, .imm v, 2, .none⟩
  | .oraZp b => ⟨0x05, .ora, .zp b, 3, .none⟩
  | .oraZpx b => ⟨0x15, .ora, .zpx b, 4, .none⟩
  | .oraAbs a => ⟨0x0D, .ora, .abs a, 4, .none⟩
  | .oraAbx a => ⟨0x1D, .ora, .abx a, 4, .pageCross⟩
  | .oraAby a => ⟨0x19, .ora, .aby a, 4, .pageCross⟩
  | .oraIzx b => ⟨0x01, .ora, .izx b, 6, .none⟩
  | .oraIzy b => ⟨0x11, .ora, .izy b, 5, .pageCross⟩
  | .eorImm v => ⟨0x49, .eor, .imm v, 2, .none⟩
  | .eorZp b => ⟨0x45, .eor, .zp b, 3, .none⟩
  | .eorZpx b => ⟨0x55, .eor, .zpx b, 4, .none⟩
  | .eorAbs a => ⟨0x4D, .eor, .abs a, 4, .none⟩
  | .eorAbx a => ⟨0x5D, .eor, .abx a, 4, .pageCross⟩
  | .eorAby a => ⟨0x59, .eor, .aby a, 4, .pageCross⟩
  | .eorIzx b => ⟨0x41, .eor, .izx b, 6, .none⟩
  | .eorIzy b => ⟨0x51, .eor, .izy b, 5, .pageCross⟩
  | .cmpImm v => ⟨0xC9, .cmp, .imm v, 2, .none⟩
  | .cmpZp b => ⟨0xC5, .cmp, .zp b, 3, .none⟩
  | .cmpZpx b => ⟨0xD5, .cmp, .zpx b, 4, .none⟩
  | .cmpAbs a => ⟨0xCD, .cmp, .abs a, 4, .none⟩
  | .cmpAbx a => ⟨0xDD, .cmp, .abx a, 4, .pageCross⟩
  | .cmpAby a => ⟨0xD9, .cmp, .aby a, 4, .pageCross⟩
  | .cmpIzx b => ⟨0xC1, .cmp, .izx b, 6, .none⟩
  | .cmpIzy b => ⟨0xD1, .cmp, .izy b, 5, .pageCross⟩
  | .cpxImm v => ⟨0xE0, .cpx, .imm v, 2, .none⟩
  | .cpxZp b => ⟨0xE4, .cpx, .zp b, 3, .none⟩
  | .cpxAbs a => ⟨0xEC, .cpx, .abs a, 4, .none⟩
  | .cpyImm v => ⟨0xC0, .cpy, .imm v, 2, .none⟩
  | .cpyZp b => ⟨0xC4, .cpy, .zp b, 3, .none⟩
  | .cpyAbs a => ⟨0xCC, .cpy, .abs a, 4, .none⟩
  | .bitZp b => ⟨0x24, .bit, .zp b, 3, .none⟩
  | .bitAbs a => ⟨0x2C, .bit, .abs a, 4, .none⟩
  | .incZp b => ⟨0xE6, .inc, .zp b, 5, .none⟩
  | .incZpx b => ⟨0xF6, .inc, .zpx b, 6, .none⟩
  | .incAbs a => ⟨0xEE, .inc, .abs a, 6, .none⟩
  | .incAbx a => ⟨0xFE, .inc, .abx a, 7, .none⟩
  | .decZp b => ⟨0xC6, .dec, .zp b, 5, .none⟩
  | .decZpx b => ⟨0xD6, .dec, .zpx b, 6, .none⟩
  | .decAbs a => ⟨0xCE, .dec, .abs a, 6, .none⟩
  | .decAbx a => ⟨0xDE, .dec, .abx a, 7, .none⟩
  | .inx => ⟨0xE8, .inx, .imp, 2, .none⟩
  | .iny => ⟨0xC8, .iny, .imp, 2, .none⟩
  | .dex => ⟨0xCA, .dex, .imp, 2, .none⟩
  | .dey => ⟨0x88, .dey, .imp, 2, .none⟩
  | .aslAcc => ⟨0x0A, .asl, .acc, 2, .none⟩
  | .aslZp b => ⟨0x06, .asl, .zp b, 5, .none⟩
  | .aslZpx b => ⟨0x16, .asl, .zpx b, 6, .none⟩
  | .aslAbs a => ⟨0x0E, .asl, .abs a, 6, .none⟩
  | .aslAbx a => ⟨0x1E, .asl, .abx a, 7, .none⟩
  | .lsrAcc => ⟨0x4A, .lsr, .acc, 2, .none⟩
  | .lsrZp b => ⟨0x46, .lsr, .zp b, 5, .none⟩
  | .lsrZpx b => ⟨0x56, .lsr, .zpx b, 6, .none⟩
  | .lsrAbs a => ⟨0x4E, .lsr, .abs a, 6, .none⟩
  | .lsrAbx a => ⟨0x5E, .lsr, .abx a, 7, .none⟩
  | .rolAcc => ⟨0x2A, .rol, .acc, 2, .none⟩
  | .rolZp b => ⟨0x26, .rol, .zp b, 5, .none⟩
  | .rolZpx b => ⟨0x36, .rol, .zpx b, 6, .none⟩
  | .rolAbs a => ⟨0x2E, .rol, .abs a, 6, .none⟩
  | .rolAbx a => ⟨0x3E, .rol, .abx a, 7, .none⟩
  | .rorAcc => ⟨0x6A, .ror, .acc, 2, .none⟩
  | .rorZp b => ⟨0x66, .ror, .zp b, 5, .none⟩
  | .rorZpx b => ⟨0x76, .ror, .zpx b, 6, .none⟩
  | .rorAbs a => ⟨0x6E, .ror, .abs a, 6, .none⟩
  | .rorAbx a => ⟨0x7E, .ror, .abx a, 7, .none⟩
  | .jmpAbs a => ⟨0x4C, .jmp, .abs a, 3, .none⟩
  | .jmpInd a => ⟨0x6C, .jmp, .ind a, 5, .none⟩
  | .jsr a => ⟨0x20, .jsr, .abs a, 6, .none⟩
  | .rts => ⟨0x60, .rts, .imp, 6, .none⟩
  | .bcc d => ⟨0x90, .bcc, .rel d, 2, .branch⟩
  | .bcs d => ⟨0xB0, .bcs, .rel d, 2, .branch⟩
  | .beq d => ⟨0xF0, .beq, .rel d, 2, .branch⟩
  | .bne d => ⟨0xD0, .bne, .rel d, 2, .branch⟩
  | .bmi d => ⟨0x30, .bmi, .rel d, 2, .branch⟩
  | .bpl d => ⟨0x10, .bpl, .rel d, 2, .branch⟩
  | .bvc d => ⟨0x50, .bvc, .rel d, 2, .branch⟩
  | .bvs d => ⟨0x70, .bvs, .rel d, 2, .branch⟩
  | .pha => ⟨0x48, .pha, .imp, 3, .none⟩
  | .php => ⟨0x08, .php, .imp, 3, .none⟩
  | .pla => ⟨0x68, .pla, .imp, 4, .none⟩
  | .plp => ⟨0x28, .plp, .imp, 4, .none⟩
  | .clc => ⟨0x18, .clc, .imp, 2, .none⟩
  | .sec => ⟨0x38, .sec, .imp, 2, .none⟩
  | .cli => ⟨0x58, .cli, .imp, 2, .none⟩
  | .sei => ⟨0x78, .sei, .imp, 2, .none⟩
  | .cld => ⟨0xD8, .cld, .imp, 2, .none⟩
  | .sed => ⟨0xF8, .sed, .imp, 2, .none⟩
  | .clv => ⟨0xB8, .clv, .imp, 2, .none⟩
  | .nop => ⟨0xEA, .nop, .imp, 2, .none⟩
  | .brk => ⟨0x00, .brk, .imp, 7, .none⟩
  | .rti => ⟨0x40, .rti, .imp, 6, .none⟩
  | .unknown op => ⟨op, .unknown, .unk, Config.unknownCycles, .none⟩

/-- The opcode byte of an instruction. -/
def Instr.opcode (i : Instr) : Byte := i.form.opcode

/-- The mnemonic of an instruction. -/
def Instr.mnemonic (i : Instr) : Mnemonic := i.form.mnemonic

/-- The operand of an instruction. -/
def Instr.operand (i : Instr) : Operand := i.form.operand

/-- The length of an instruction in bytes, fixed by its mode (R60). -/
def Instr.length (i : Instr) : Nat := i.operand.mode.length

/-- The words of an instruction: the opcode byte, then the operand bytes (R60, R61). -/
def encode (i : Instr) : List Byte := i.opcode :: i.operand.bytes

/-- The instruction the opcode byte `b0` selects (R63, R65), with operand bytes `b1`, `b2` where its mode has them.
The opcode byte is matched by its two hexadecimal digits, high then low. Total: every byte without a row is the
unknown opcode (R67). -/
def assemble (b0 b1 b2 : Byte) : Instr :=
  match b0.toNat / 16, b0.toNat % 16 with
  | 0x0, 0x0 => .brk
  | 0x0, 0x1 => .oraIzx b1
  | 0x0, 0x5 => .oraZp b1
  | 0x0, 0x6 => .aslZp b1
  | 0x0, 0x8 => .php
  | 0x0, 0x9 => .oraImm b1
  | 0x0, 0xA => .aslAcc
  | 0x0, 0xD => .oraAbs (joinBytes b2 b1)
  | 0x0, 0xE => .aslAbs (joinBytes b2 b1)
  | 0x1, 0x0 => .bpl b1
  | 0x1, 0x1 => .oraIzy b1
  | 0x1, 0x5 => .oraZpx b1
  | 0x1, 0x6 => .aslZpx b1
  | 0x1, 0x8 => .clc
  | 0x1, 0x9 => .oraAby (joinBytes b2 b1)
  | 0x1, 0xD => .oraAbx (joinBytes b2 b1)
  | 0x1, 0xE => .aslAbx (joinBytes b2 b1)
  | 0x2, 0x0 => .jsr (joinBytes b2 b1)
  | 0x2, 0x1 => .andIzx b1
  | 0x2, 0x4 => .bitZp b1
  | 0x2, 0x5 => .andZp b1
  | 0x2, 0x6 => .rolZp b1
  | 0x2, 0x8 => .plp
  | 0x2, 0x9 => .andImm b1
  | 0x2, 0xA => .rolAcc
  | 0x2, 0xC => .bitAbs (joinBytes b2 b1)
  | 0x2, 0xD => .andAbs (joinBytes b2 b1)
  | 0x2, 0xE => .rolAbs (joinBytes b2 b1)
  | 0x3, 0x0 => .bmi b1
  | 0x3, 0x1 => .andIzy b1
  | 0x3, 0x5 => .andZpx b1
  | 0x3, 0x6 => .rolZpx b1
  | 0x3, 0x8 => .sec
  | 0x3, 0x9 => .andAby (joinBytes b2 b1)
  | 0x3, 0xD => .andAbx (joinBytes b2 b1)
  | 0x3, 0xE => .rolAbx (joinBytes b2 b1)
  | 0x4, 0x0 => .rti
  | 0x4, 0x1 => .eorIzx b1
  | 0x4, 0x5 => .eorZp b1
  | 0x4, 0x6 => .lsrZp b1
  | 0x4, 0x8 => .pha
  | 0x4, 0x9 => .eorImm b1
  | 0x4, 0xA => .lsrAcc
  | 0x4, 0xC => .jmpAbs (joinBytes b2 b1)
  | 0x4, 0xD => .eorAbs (joinBytes b2 b1)
  | 0x4, 0xE => .lsrAbs (joinBytes b2 b1)
  | 0x5, 0x0 => .bvc b1
  | 0x5, 0x1 => .eorIzy b1
  | 0x5, 0x5 => .eorZpx b1
  | 0x5, 0x6 => .lsrZpx b1
  | 0x5, 0x8 => .cli
  | 0x5, 0x9 => .eorAby (joinBytes b2 b1)
  | 0x5, 0xD => .eorAbx (joinBytes b2 b1)
  | 0x5, 0xE => .lsrAbx (joinBytes b2 b1)
  | 0x6, 0x0 => .rts
  | 0x6, 0x1 => .adcIzx b1
  | 0x6, 0x5 => .adcZp b1
  | 0x6, 0x6 => .rorZp b1
  | 0x6, 0x8 => .pla
  | 0x6, 0x9 => .adcImm b1
  | 0x6, 0xA => .rorAcc
  | 0x6, 0xC => .jmpInd (joinBytes b2 b1)
  | 0x6, 0xD => .adcAbs (joinBytes b2 b1)
  | 0x6, 0xE => .rorAbs (joinBytes b2 b1)
  | 0x7, 0x0 => .bvs b1
  | 0x7, 0x1 => .adcIzy b1
  | 0x7, 0x5 => .adcZpx b1
  | 0x7, 0x6 => .rorZpx b1
  | 0x7, 0x8 => .sei
  | 0x7, 0x9 => .adcAby (joinBytes b2 b1)
  | 0x7, 0xD => .adcAbx (joinBytes b2 b1)
  | 0x7, 0xE => .rorAbx (joinBytes b2 b1)
  | 0x8, 0x1 => .staIzx b1
  | 0x8, 0x4 => .styZp b1
  | 0x8, 0x5 => .staZp b1
  | 0x8, 0x6 => .stxZp b1
  | 0x8, 0x8 => .dey
  | 0x8, 0xA => .txa
  | 0x8, 0xC => .styAbs (joinBytes b2 b1)
  | 0x8, 0xD => .staAbs (joinBytes b2 b1)
  | 0x8, 0xE => .stxAbs (joinBytes b2 b1)
  | 0x9, 0x0 => .bcc b1
  | 0x9, 0x1 => .staIzy b1
  | 0x9, 0x4 => .styZpx b1
  | 0x9, 0x5 => .staZpx b1
  | 0x9, 0x6 => .stxZpy b1
  | 0x9, 0x8 => .tya
  | 0x9, 0x9 => .staAby (joinBytes b2 b1)
  | 0x9, 0xA => .txs
  | 0x9, 0xD => .staAbx (joinBytes b2 b1)
  | 0xA, 0x0 => .ldyImm b1
  | 0xA, 0x1 => .ldaIzx b1
  | 0xA, 0x2 => .ldxImm b1
  | 0xA, 0x4 => .ldyZp b1
  | 0xA, 0x5 => .ldaZp b1
  | 0xA, 0x6 => .ldxZp b1
  | 0xA, 0x8 => .tay
  | 0xA, 0x9 => .ldaImm b1
  | 0xA, 0xA => .tax
  | 0xA, 0xC => .ldyAbs (joinBytes b2 b1)
  | 0xA, 0xD => .ldaAbs (joinBytes b2 b1)
  | 0xA, 0xE => .ldxAbs (joinBytes b2 b1)
  | 0xB, 0x0 => .bcs b1
  | 0xB, 0x1 => .ldaIzy b1
  | 0xB, 0x4 => .ldyZpx b1
  | 0xB, 0x5 => .ldaZpx b1
  | 0xB, 0x6 => .ldxZpy b1
  | 0xB, 0x8 => .clv
  | 0xB, 0x9 => .ldaAby (joinBytes b2 b1)
  | 0xB, 0xA => .tsx
  | 0xB, 0xC => .ldyAbx (joinBytes b2 b1)
  | 0xB, 0xD => .ldaAbx (joinBytes b2 b1)
  | 0xB, 0xE => .ldxAby (joinBytes b2 b1)
  | 0xC, 0x0 => .cpyImm b1
  | 0xC, 0x1 => .cmpIzx b1
  | 0xC, 0x4 => .cpyZp b1
  | 0xC, 0x5 => .cmpZp b1
  | 0xC, 0x6 => .decZp b1
  | 0xC, 0x8 => .iny
  | 0xC, 0x9 => .cmpImm b1
  | 0xC, 0xA => .dex
  | 0xC, 0xC => .cpyAbs (joinBytes b2 b1)
  | 0xC, 0xD => .cmpAbs (joinBytes b2 b1)
  | 0xC, 0xE => .decAbs (joinBytes b2 b1)
  | 0xD, 0x0 => .bne b1
  | 0xD, 0x1 => .cmpIzy b1
  | 0xD, 0x5 => .cmpZpx b1
  | 0xD, 0x6 => .decZpx b1
  | 0xD, 0x8 => .cld
  | 0xD, 0x9 => .cmpAby (joinBytes b2 b1)
  | 0xD, 0xD => .cmpAbx (joinBytes b2 b1)
  | 0xD, 0xE => .decAbx (joinBytes b2 b1)
  | 0xE, 0x0 => .cpxImm b1
  | 0xE, 0x1 => .sbcIzx b1
  | 0xE, 0x4 => .cpxZp b1
  | 0xE, 0x5 => .sbcZp b1
  | 0xE, 0x6 => .incZp b1
  | 0xE, 0x8 => .inx
  | 0xE, 0x9 => .sbcImm b1
  | 0xE, 0xA => .nop
  | 0xE, 0xC => .cpxAbs (joinBytes b2 b1)
  | 0xE, 0xD => .sbcAbs (joinBytes b2 b1)
  | 0xE, 0xE => .incAbs (joinBytes b2 b1)
  | 0xF, 0x0 => .beq b1
  | 0xF, 0x1 => .sbcIzy b1
  | 0xF, 0x5 => .sbcZpx b1
  | 0xF, 0x6 => .incZpx b1
  | 0xF, 0x8 => .sed
  | 0xF, 0x9 => .sbcAby (joinBytes b2 b1)
  | 0xF, 0xD => .sbcAbx (joinBytes b2 b1)
  | 0xF, 0xE => .incAbx (joinBytes b2 b1)
  | _, _ => .unknown b0

/-- The length the opcode byte alone fixes (R69). -/
def lengthOf (b0 : Byte) : Nat := (assemble b0 0 0).length

/-- Why a list of bytes holds no instruction. Decoding itself cannot fail (R83): there is only a list too short for the
length its first byte fixes. -/
inductive DecodeError where
  /-- no byte at all -/
  | noOpcode
  /-- the opcode byte fixes more operand bytes than the list has -/
  | missingOperand (op : Byte)
  deriving DecidableEq, Repr

/-- Read one instruction from the front of a list of bytes and give the bytes after it. Total; rejects by name. -/
def decode : List Byte → Except DecodeError (Instr × List Byte)
  | [] => .error .noOpcode
  | b0 :: rest =>
    match lengthOf b0, rest with
    | 1, rest => .ok (assemble b0 0 0, rest)
    | 2, b1 :: rest => .ok (assemble b0 b1 0, rest)
    | 3, b1 :: b2 :: rest => .ok (assemble b0 b1 b2, rest)
    | _, _ => .error (.missingOperand b0)

/-! ### The configured opcode table (R63, R6 `OPCODE_TABLE`) -/

/-- The definition a row of the default table gives its opcode byte. -/
def Form.definition (f : Form) : InstructionDef :=
  { opcode := f.opcode, mnemonic := f.mnemonic, mode := f.operand.mode, baseCycles := f.baseCycles, penalty := f.penalty }

/-- The definition the default table gives an opcode byte (R65, R67). -/
def defaultDefinition (op : Byte) : InstructionDef := (assemble op 0 0).form.definition

/-- The row of the configuration for an opcode byte, if it has one. -/
def Configuration.row (c : Configuration) (op : Byte) : Option InstructionDef :=
  c.opcodes.find? fun d => decide (d.opcode = op)

/-- `Decode` (R63): the definition of an opcode byte, by the configured table. -/
def Configuration.definition (c : Configuration) (op : Byte) : InstructionDef :=
  (c.row op).getD (defaultDefinition op)

/-- The text of a mnemonic in an audit record (R29, R71). -/
def Configuration.text (c : Configuration) (m : Mnemonic) : String :=
  if m = .unknown then c.sentinelMnemonic else m.text

/-- The cost of an instruction (R99), where a taken branch into another page costs `crossExtra` more. -/
def InstructionDef.cost (d : InstructionDef) (crossExtra : Nat) (crossed taken : Bool) : Nat :=
  d.baseCycles + (if d.penalty = .pageCross ∧ crossed = true then 1 else 0) +
    (if d.penalty = .branch ∧ taken = true then 1 + (if crossed = true then crossExtra else 0) else 0)

/-- The micro-ops the resolver makes; the byte of IMM is counted as the behaviour's (R106). -/
def Mode.reads : Mode → Nat
  | .imp | .acc | .imm | .unk => 0
  | .zp | .zpx | .zpy | .rel => 1
  | .abs | .abx | .aby => 2
  | .izx | .izy => 3
  | .ind => 4

/-- The micro-ops of a mnemonic's behaviour (R106). -/
def Mnemonic.transactions (m : Mnemonic) (mode : Mode) : Nat :=
  match m with
  | .lda | .ldx | .ldy | .adc | .sbc | .and | .ora | .eor | .cmp | .cpx | .cpy | .bit => 1
  | .sta | .stx | .sty | .pha | .php | .pla | .plp => 1
  | .inc | .dec | .asl | .lsr | .rol | .ror => if mode = .acc then 0 else 2
  | .jsr | .rts => 2
  | .rti => 3
  | .brk => 5
  | _ => 0

/-- The micro-ops of a whole step: the opcode fetch, the resolver's, the behaviour's (R106). -/
def InstructionDef.microOps (d : InstructionDef) : Nat := 1 + d.mode.reads + d.mnemonic.transactions d.mode

/-- Does the resolver give an address in this mode (R85 to R97)? -/
def Mode.hasAddress : Mode → Bool
  | .imp | .acc | .unk => false
  | _ => true

/-- The modes in which the rules give a mnemonic an effect. A behaviour that uses the resolved address needs one, and
those that read, compute and write back have A in its place in mode ACC (R86); one that uses none runs in every mode of
R61; the sentinel has the mode UNK alone (R67). That every mode with an address serves every behaviour that uses one is
DEDUCED, unsafe (log entry 18): the behaviour receives the address, however it was resolved (R64). -/
def Mnemonic.takes (m : Mnemonic) (mode : Mode) : Bool :=
  match m with
  | .unknown => mode = .unk
  | .inc | .dec | .asl | .lsr | .rol | .ror => mode = .acc || mode.hasAddress
  | .lda | .ldx | .ldy | .sta | .stx | .sty | .adc | .sbc | .and | .ora | .eor | .cmp | .cpx | .cpy | .bit
  | .jmp | .jsr | .bcc | .bcs | .beq | .bne | .bmi | .bpl | .bvc | .bvs => mode.hasAddress
  | _ => mode ≠ .unk

/-- The most cycles a penalty class adds (R64, R99), where the further cycle of a taken branch is `crossExtra`, in any mode
and for any mnemonic. -/
def Penalty.most (crossExtra : Nat) : Penalty → Nat
  | .none => 0
  | .pageCross => 1
  | .branch => 1 + crossExtra

/-- A definition the model allows: a mode in which its mnemonic has an effect, a cost between 2 and 7 (R99), no more
micro-ops than its cost (R45, R106), and for the sentinel the cost of R67. DESIGN CHOICE, safe (log entry 13): the bound
of 7 is asked of the base cost and all that the penalty class can add, whatever the mode and the mnemonic. So a row is
refused also where they never let the class add it: class `pageCross` at base 7 in ZP, which never crosses, or class
`branch` at base 6 on LDA, which is never taken, and in ABS, which never crosses. -/
def InstructionDef.allowed (crossExtra : Nat) (d : InstructionDef) : Bool :=
  d.mnemonic.takes d.mode && decide (2 ≤ d.baseCycles) && decide (d.baseCycles + d.penalty.most crossExtra ≤ 7) &&
    decide (d.microOps ≤ d.baseCycles) &&
    decide (d.mnemonic = .unknown → d.baseCycles = Config.unknownCycles ∧ d.penalty = .none)

/-- A configuration the model allows: `BRANCH_CROSS_EXTRA` is 1 or 0 (R6), and every row is allowed. That construction
asks for it, and refuses some rows whose cost R99 would let stand, is DESIGN CHOICE, safe (log entry 13). -/
def Configuration.wellFormed (c : Configuration) : Bool :=
  decide (c.branchCrossExtra ≤ 1) && c.opcodes.all fun d => d.allowed c.branchCrossExtra

/-! ### Words as the opcode table numbers them -/

/-- Byte `k` of a number whose bits are numbered as `spec/opcode_table.json` numbers an instruction's bits. -/
def tableByte (w k : Nat) : Byte := BitVec.ofNat 8 (w / 2 ^ (8 * k))

/-- The three bytes (the longest instruction) of a table word of `nbits` bits: the bits above `nbits` are 0. -/
def tableBytes (nbits w : Nat) : List Byte :=
  [tableByte (w % 2 ^ nbits) 0, tableByte (w % 2 ^ nbits) 1, tableByte (w % 2 ^ nbits) 2]

/-- The instruction the decoder reads from an instruction whose bits are `w`. -/
def decodeTableWord (nbits w : Nat) : Option Instr :=
  match decode (tableBytes nbits w) with
  | .ok (i, _) => some i
  | .error _ => none

end Sys2Proof
end

