-- ==== Sys2Proof/Machine/State.lean ====
section
/-!
DEFINITION. The state of one triad (R10), the record types of R29, the reasons a step can stop, and the state right
after reset.

State holds all R10 lists, the parameters of R6 that are given at launch (the configuration, the ROM image and its length,
the register window and its device, the mapper), which no step changes, and one field that is the model's own: `audit`, the record the
last `Step` returned (R100), because a step of the host's interface returns a state and nothing else.
-/

namespace Sys2Proof.Machine

/-- Memory as a list of (address, byte) cells in one form: addresses rising, no cell holding the unlisted byte. -/
abbrev Memory := List Host.Cell

/-- The two kinds of micro-op (R29). -/
inductive AccessKind where
  | read | write
  deriving DecidableEq, Repr

/-- One audited bus transaction (R29): the address as issued, the byte transferred, its index in the step. -/
structure MicroOp where
  kind : AccessKind
  addr : Word
  value : Byte
  offset : Nat
  deriving DecidableEq, Repr

/-- The CPU registers and the cycle count after a step (R29, R100). -/
structure CpuSnapshot where
  a : Byte
  x : Byte
  y : Byte
  p : Byte
  s : Byte
  pc : Word
  cycles : Nat
  deriving DecidableEq, Repr

/-- What `Step` returns (R29, R100). -/
structure InstructionAudit where
  seq : Nat
  opcode : Byte
  mnemonic : String
  startCycle : Nat
  microOps : List MicroOp
  snapshot : CpuSnapshot
  deriving DecidableEq, Repr

/-- The mapper of the triad (R39): the fixed-ROM mapper, which has no state (R25), or another one with its state. -/
inductive Mapper where
  /-- the fixed-ROM mapper of R40 over `State.rom` -/
  | fixedRom
  /-- a mapper given at launch (R6 `MAPPER`): its functions, which no step changes, and its state -/
  | custom (m : MapperDevice) (ms : MapperState)
  deriving DecidableEq, Repr

/-- The faults of a step. There are none: a step has exactly one outcome, the next state (R105, R200). DEDUCED, safe (log
entry 12). -/
inductive Fault where
  deriving DecidableEq, Repr

/-- The refusals of a step. -/
inductive Refusal where
  /-- Raised by an arm of `exec` whose instruction has no meaning yet, and by nothing else; safe. No arm does. -/
  | notModelled (mnemonic : String)
  deriving DecidableEq, Repr

/-- The complete state of one triad (R10). -/
structure State where
  /-- `A`, the accumulator (R11) -/
  a : Byte
  /-- `X`, index register (R12) -/
  x : Byte
  /-- `Y`, index register (R13) -/
  y : Byte
  /-- `S`, the stack pointer, naming the next free slot of page one (R14) -/
  sp : Byte
  /-- `P`, the status register (R16) -/
  p : Byte
  /-- `PC`, between steps the address of the next opcode byte (R15) -/
  pc : Word
  /-- `cycles`, the cycle counter, unbounded (R20) -/
  cycles : Nat
  /-- `seq`, the sequence counter, unbounded (R21) -/
  seq : Nat
  /-- `instructionStartCycle`, written by the first action of a step (R22) -/
  startCycle : Nat
  /-- `RAM`, cells `0` to `2047` (R23) -/
  ram : Memory
  /-- `log`, the micro-ops of the step in progress or of the last one (R24) -/
  log : List MicroOp
  /-- `k`, the offset the next micro-op carries (R24) -/
  k : Nat
  /-- the mapper and, where it has one, its state (R25) -/
  mapper : Mapper
  /-- device state behind the register window (R26) -/
  dev : DevState
  /-- launch parameter `ROM`: the fixed-ROM mapper's buffer, cells by offset (R40) -/
  rom : Memory
  /-- launch parameter: the length `L` of the ROM buffer (R40, R42) -/
  romLength : Nat
  /-- launch parameter `REG_WINDOW`: the addresses of the register window (R34) -/
  regWindow : List Word
  /-- launch parameter `DEVICE`: the hooks of the register window (R34) -/
  device : Device
  /-- the parameters R6 marks `config` -/
  config : Configuration
  /-- the model's output: the audit record the last step returned (R100), none before the first step; DESIGN CHOICE, safe
  (log entry 6) -/
  audit : Option InstructionAudit
  deriving DecidableEq, Repr

/-- The machine right after construction and one `Reset` (R225), registers as R221 says. Construction takes a ROM and a
`RAM_INIT` the spec leaves to the launch (R6): here a 32768-byte image of zeros and RAM of zeros, nothing listed, the
fixed-ROM mapper, an empty register window, the configuration of the defaults. The reset vector of that image is `0x0000`, so `PC` is
`0x0000` (vector S2.4). `startCycle` is not written by reset (R221); 0 is the model's choice. DESIGN CHOICE, unsafe (log entries
1, 2 and 5); the record is the model's own field (log entry 6). -/
def State.reset : State where
  a := 0x00
  x := 0x00
  y := 0x00
  sp := Config.default.resetS
  p := Config.resetP
  pc := 0x0000
  cycles := Config.resetCycles
  seq := 0
  startCycle := 0
  ram := []
  log := []
  k := 0
  mapper := .fixedRom
  dev := []
  rom := []
  romLength := 32768
  regWindow := []
  device := {}
  config := Config.default
  audit := none

end Sys2Proof.Machine
end

