-- ==== Sys2Proof/Machine/Ops.lean ====
section
/-!
DEFINITION. The named operations of the machine: memory cells, the bus and its recorder (R30 to R58), the stack
(R102, R103), the software interrupt and the return from it (R201, R206), reset and launch (R220 to R225), and the
stages of a step around the instruction (R81, R82, R100).
Every register, flag, RAM, ROM and device access of the meanings goes through these.
-/

namespace Sys2Proof.Machine

/-! ### Memory cells -/

/-- What a cell that is not listed holds: 0x00, for ROM its zero bytes, for RAM the contents `State.reset` starts from:
DESIGN CHOICE, unsafe (log entry 1). -/
def Memory.unlisted : Byte := 0x00

/-- The byte of cell `a`. -/
def Memory.read : Memory → Nat → Byte
  | [], _ => Memory.unlisted
  | (b, w) :: m, a => if a = b then w else Memory.read m a

/-- Put a cell in front of a list, unless it holds the unlisted byte. -/
def Memory.cons (a : Nat) (v : Byte) (m : Memory) : Memory :=
  if v = Memory.unlisted then m else (a, v) :: m

/-- Set cell `a` to `v`, keeping the list in its one form. -/
def Memory.write : Memory → Nat → Byte → Memory
  | [], a, v => Memory.cons a v []
  | (b, w) :: m, a, v =>
    if a < b then Memory.cons a v ((b, w) :: m)
    else if a = b then Memory.cons a v m
    else (b, w) :: Memory.write m a v

/-- Addresses rise strictly from `lo` on, and no cell holds the unlisted byte. -/
def Memory.wfFrom (lo : Nat) : Memory → Bool
  | [] => true
  | (b, w) :: m => decide (lo ≤ b) && decide (w ≠ Memory.unlisted) && Memory.wfFrom (b + 1) m

/-- The one form of a memory. -/
def Memory.wf (m : Memory) : Bool := Memory.wfFrom 0 m

/-- Every listed address is below `n`. -/
def Memory.within (n : Nat) (m : Memory) : Bool := m.all fun c => decide (c.1 < n)

/-- The memory whose cells from `n` on are the bytes of a buffer. -/
def Memory.ofBytesFrom (n : Nat) : List Byte → Memory
  | [] => []
  | b :: bs => Memory.cons n b (Memory.ofBytesFrom (n + 1) bs)

/-- The memory that holds a byte buffer from cell 0 on. -/
def Memory.ofBytes (bs : List Byte) : Memory := Memory.ofBytesFrom 0 bs

/-! ### Registers -/

/-- `A <- v`. -/
def State.setA (s : State) (v : Byte) : State := { s with a := v }

/-- `X <- v`. -/
def State.setX (s : State) (v : Byte) : State := { s with x := v }

/-- `Y <- v`. -/
def State.setY (s : State) (v : Byte) : State := { s with y := v }

/-- `S <- v`. -/
def State.setSp (s : State) (v : Byte) : State := { s with sp := v }

/-- `P <- v`. -/
def State.setP (s : State) (v : Byte) : State := { s with p := v }

/-- `PC <- v`. -/
def State.setPc (s : State) (v : Word) : State := { s with pc := v }

/-! ### The bus -/

/-- The RAM cell an address below `0x2000` names, through the mirrors (R32). -/
def ramIndex (addr : Word) : Nat := (addr &&& 0x07FF).toNat

/-- The offset into the ROM buffer of length `len` of an address of the cartridge window (R40). -/
def romOffset (len : Nat) (addr : Word) : Nat :=
  if len = 16384 then ((addr - 0x8000) &&& 0x3FFF).toNat else (addr - 0x8000).toNat

/-- `cpuRead` of the fixed-ROM mapper (R40), with the fill value beyond the buffer (R41). -/
def romRead (rom : Memory) (len : Nat) (addr : Word) : Byte :=
  if romOffset len addr < len then rom.read (romOffset len addr) else Config.mapperFill

/-- What a function given by rows answers: the first row that matches gives its value, `free` where none does. -/
def rowOr {α β : Type} (rows : List α) (matching : α → Bool) (value : α → β) (free : β) : β :=
  match rows.find? matching with
  | some r => value r
  | none => free

/-- `Mapper.cpuRead` (R33, R39). -/
def State.mapperRead (s : State) (addr : Word) : Byte :=
  match s.mapper with
  | .fixedRom => romRead s.rom s.romLength addr
  | .custom m ms =>
    rowOr m.reads (fun r => decide (r.ms = ms ∧ r.addr = addr)) MapperReadRow.value (Config.mapperRead m.id ms addr)

/-- `Mapper.cpuWrite` (R39): nothing for the fixed-ROM mapper (R40). -/
def State.mapperWrite (s : State) (addr : Word) (v : Byte) : Mapper :=
  match s.mapper with
  | .fixedRom => .fixedRom
  | .custom m ms =>
    .custom m (rowOr m.writes (fun r => decide (r.ms = ms ∧ r.addr = addr ∧ r.value = v)) MapperWriteRow.next
      (Config.mapperWrite m.id ms addr v))

/-- `DevRead` (R34) of the device given at launch: the byte, and the device state after it. -/
def State.devRead (s : State) (addr : Word) : Byte × DevState :=
  rowOr s.device.reads (fun r => decide (r.dev = s.dev ∧ r.addr = addr)) (fun r => (r.value, r.next))
    (Config.devRead s.device.id s.dev addr)

/-- `DevWrite` (R34) of the device given at launch: the device state after the write. -/
def State.devWrite (s : State) (addr : Word) (v : Byte) : DevState :=
  rowOr s.device.writes (fun r => decide (r.dev = s.dev ∧ r.addr = addr ∧ r.value = v)) DevWriteRow.next
    (Config.devWrite s.device.id s.dev addr v)

/-- The routing of a read (R31): the byte, and the device state after it. -/
def State.route (s : State) (addr : Word) : Byte × DevState :=
  if addr.toNat < 0x2000 then (s.ram.read (ramIndex addr), s.dev)
  else if addr ∈ s.regWindow then s.devRead addr
  else if 0x8000 ≤ addr.toNat then (s.mapperRead addr, s.dev)
  else (Config.unmappedRead, s.dev)

/-- `MemPeek` (R36): the byte the routing gives, no side effect, no micro-op; `DevPeek` is the value `DevRead` would
return (R34): DEDUCED, safe (log entry 9). -/
def memPeek (s : State) (addr : Word) : Byte := (s.route addr).1

/-- `Record` (R43): append a micro-op with offset `k`, and count it. -/
def State.record (s : State) (kind : AccessKind) (addr : Word) (v : Byte) : State :=
  { s with log := s.log ++ [{ kind := kind, addr := addr, value := v, offset := s.k }], k := s.k + 1 }

/-- `MemRead` (R31): route, keep the device's side effect, record. -/
def memRead (s : State) (addr : Word) : Byte × State :=
  ((s.route addr).1, State.record { s with dev := (s.route addr).2 } .read addr (s.route addr).1)

/-- The routing of a write (R37, R38): RAM, register window, mapper, or nothing. -/
def State.routeWrite (s : State) (addr : Word) (v : Byte) : State :=
  if addr.toNat < 0x2000 then { s with ram := s.ram.write (ramIndex addr) v }
  else if addr ∈ s.regWindow then { s with dev := s.devWrite addr v }
  else if 0x8000 ≤ addr.toNat then { s with mapper := s.mapperWrite addr v }
  else s

/-- `MemWrite` (R37): route, then record whatever the range (R44). -/
def memWrite (s : State) (addr : Word) (v : Byte) : State := (s.routeWrite addr v).record .write addr v

/-- `clearAuditLog` (R46), done by the first action of a step and by nothing else: DESIGN CHOICE, safe (log entry 17). -/
def State.clearLog (s : State) : State := { s with log := [], k := 0 }

/-- `Fetch8` (R82): read the byte at `PC` and advance `PC`, which wraps (R15). -/
def fetch8 (s : State) : Byte × State :=
  ((memRead s s.pc).1, (memRead s s.pc).2.setPc (s.pc + 1))

/-! ### The stack -/

/-- The address of the stack slot `S` names: `0x0100 | S` (R14). -/
def stackAddr (sp : Byte) : Word := joinBytes 0x01 sp

/-- `Push` (R102): write, then decrement `S`, which wraps within the page (R14). -/
def push (s : State) (v : Byte) : State := (memWrite s (stackAddr s.sp) v).setSp (s.sp - 1)

/-- `Pull` (R103): increment `S`, then read. -/
def pull (s : State) : Byte × State := memRead (s.setSp (s.sp + 1)) (stackAddr (s.sp + 1))

/-- Push a word, high byte first (R161, R192). -/
def pushWord (s : State) (w : Word) : State := push (push s (highByte w)) (lowByte w)

/-- Pull a word, low byte first (R162, R193). -/
def pullWord (s : State) : Word × State :=
  let (lo, s1) := pull s
  let (hi, s2) := pull s1
  (joinBytes hi lo, s2)

/-- The byte PHP and BRK push: `P` with the break flag set (R18, R181). -/
def pushedStatus (p : Byte) : Byte := p ||| 0x10

/-- The status PLP and RTI restore: break masked out, unused bit set (R18, R183). -/
def restoredStatus (v : Byte) : Byte := (v &&& 0xEF) ||| 0x20

/-- Read a word at two addresses, low byte first. -/
def readWord (s : State) (lo hi : Word) : Word × State :=
  let (l, s1) := memRead s lo
  let (h, s2) := memRead s1 hi
  (joinBytes h l, s2)

/-! ### The trap-like entry and the return from it -/

/-- Taking the software interrupt (R201, R205), the machine's only trap entry: push the return address `ret` (high,
low) and `P | 0x10`, set I, and load `PC` from the BRK vector with two audited reads. D and the other flags stay. -/
def softwareInterrupt (s : State) (ret : Word) : State :=
  let s1 := push (pushWord s ret) (pushedStatus s.p)
  let s2 := s1.setP (s1.p ||| 0x04)
  let (target, s3) := readWord s2 s.config.brkVector (s.config.brkVector + 1)
  s3.setPc target

/-- The return from it (R206): pull `P` (break cleared, unused set), then `PC` low and high; nothing is added. -/
def returnFromInterrupt (s : State) : State :=
  let (v, s1) := pull s
  let (target, s2) := pullWord (s1.setP (restoredStatus v))
  s2.setPc target

/-! ### Stages of a step -/

/-- Step 1 (R81): note the start cycle and clear the log. -/
def beginStep (s : State) : State := State.clearLog { s with startCycle := s.cycles }

/-- Fetch the operand bytes of an instruction of this length (R61, R82), low to high; a byte it has not is 0. -/
def fetchBytes (length : Nat) (s : State) : Byte × Byte × State :=
  match length with
  | 1 => (0, 0, s)
  | 2 =>
    let (b1, s1) := fetch8 s
    (b1, 0, s1)
  | _ =>
    let (b1, s1) := fetch8 s
    let (b2, s2) := fetch8 s1
    (b1, b2, s2)

/-- Fetch the operand bytes the default table fixes for `op`, and assemble the instruction (R83, R61). That they are
fetched here, an immediate byte too, and not by the resolver and the behaviour, is DEDUCED, safe (log entry 7). -/
def fetchOperands (op : Byte) (s : State) : Instr × State :=
  let (b1, b2, s1) := fetchBytes (lengthOf op) s
  (assemble op b1 b2, s1)

/-- The seven fields a snapshot holds (R100). -/
def State.snapshot (s : State) : CpuSnapshot :=
  { a := s.a, x := s.x, y := s.y, p := s.p, s := s.sp, pc := s.pc, cycles := s.cycles }

/-- Step 7 (R100): the audit record of the step, and `seq` counted. -/
def endStep (op : Byte) (m : Mnemonic) (s : State) : State :=
  { s with
    audit := some { seq := s.seq, opcode := op, mnemonic := s.config.text m, startCycle := s.startCycle,
                    microOps := s.log, snapshot := s.snapshot },
    seq := s.seq + 1 }

/-- Step 6 (R99): one addition to `cycles`; there is no finer time: DEDUCED, safe (log entry 15). -/
def State.addCycles (s : State) (n : Nat) : State := { s with cycles := s.cycles + n }

/-! ### Reset, construction, launch -/

/-- `Reset` (R220), which the host may call between steps any number of times. Its vector reads are `MemPeek`: nothing
is recorded and no device is touched; everything not named here is kept (R222). No step resets: DEDUCED, safe (log entry
10). -/
def State.applyReset (s : State) : State :=
  { s with
    p := Config.resetP
    a := 0x00
    x := 0x00
    y := 0x00
    sp := s.config.resetS
    pc := joinBytes (memPeek s (Config.resetVector + 1)) (memPeek s Config.resetVector)
    cycles := Config.resetCycles
    seq := 0 }

/-- The launch parameters of R6, and the configuration. -/
structure Launch where
  rom : List Byte
  ramInit : List Byte
  mapper : Mapper := .fixedRom
  regWindow : List Word := []
  device : Device := {}
  dev : DevState := []
  config : Configuration := Config.default
  deriving DecidableEq, Repr

/-- The lengths of ROM buffer the fixed-ROM mapper accepts (R42). -/
def supportedRomLength (n : Nat) : Bool := n = 16384 ∨ n = 32768

/-- An address the register window may hold (R34). -/
def windowAddr (a : Word) : Bool := 0x2000 ≤ a.toNat ∧ a.toNat ≤ 0x7FFF

/-- A launch that construction accepts: a ROM buffer of a supported length where the fixed-ROM mapper is used (R42),
2048 bytes of RAM (R23), a register window inside `0x2000` to `0x7FFF` (R34), a configuration the model allows.
DESIGN CHOICE, safe (log entry 13). -/
def Launch.wellFormed (l : Launch) : Bool :=
  (decide (l.mapper ≠ .fixedRom) || supportedRomLength l.rom.length) && decide (l.ramInit.length = 2048) &&
    l.regWindow.all windowAddr && l.config.wellFormed

/-- Construction followed by one `Reset` (R223, R225): the launch state, or nothing where construction refuses (R42).
The state between the two is not offered (D20), DEDUCED, safe (log entry 14): the CPU registers it would hold are all
overwritten. -/
def launch (l : Launch) : Option State :=
  if l.wellFormed then
    some (State.applyReset
      { State.reset with
        ram := Memory.ofBytes l.ramInit
        rom := Memory.ofBytes l.rom
        romLength := l.rom.length
        mapper := l.mapper
        regWindow := l.regWindow
        device := l.device
        dev := l.dev
        config := l.config })
  else none

/-! ### Placing an instruction where the next step fetches it -/

/-- Does an address have storage a loader can fill: RAM, or a byte of the ROM buffer behind the fixed-ROM mapper? -/
def State.hasStorage (s : State) (addr : Word) : Bool :=
  decide (addr.toNat < 0x2000) ||
    (decide (0x8000 ≤ addr.toNat) && decide (addr ∉ s.regWindow) && decide (s.mapper = .fixedRom) &&
      decide (romOffset s.romLength addr < s.romLength))

/-- Fill the storage of an address, as loading a program from outside the machine does; no bus transaction. -/
def State.poke (s : State) (addr : Word) (v : Byte) : State :=
  if addr.toNat < 0x2000 then { s with ram := s.ram.write (ramIndex addr) v }
  else { s with rom := s.rom.write (romOffset s.romLength addr) v }

/-- Fill three bytes at `PC`; where one of them has no storage, `PC` first moves to `0x0000`, which has. DESIGN CHOICE,
safe (log entry 11). -/
def State.placeAtPc (s : State) (b0 b1 b2 : Byte) : State :=
  let ok := s.hasStorage s.pc && s.hasStorage (s.pc + 1) && s.hasStorage (s.pc + 2)
  let s' := if ok then s else s.setPc 0x0000
  ((s'.poke s'.pc b0).poke (s'.pc + 1) b1).poke (s'.pc + 2) b2

end Sys2Proof.Machine
end

