-- ==== Sys2Proof/Machine/Flags.lean ====
section
/-!
DEFINITION. The status register's bits (R16) and every flag computation the spec gives: `SetZN` (R101),
`AddWithCarry` (R128), `Compare` (R129), BIT (R138), and the shift operations with their carry (R150 to R153).
-/

namespace Sys2Proof.Machine

/-- The eight bits of `P` (R16). -/
inductive Flag where
  | c | z | i | d | b | u | v | n
  deriving DecidableEq, Repr

/-- The bit number of a flag (R16, D10). -/
def Flag.bit : Flag → Nat
  | .c => 0 | .z => 1 | .i => 2 | .d => 3 | .b => 4 | .u => 5 | .v => 6 | .n => 7

/-- Read one flag of a status byte. -/
def getFlag (p : Byte) (f : Flag) : Bool := p.getLsbD f.bit

/-- The mask of a flag. -/
def Flag.mask (f : Flag) : Byte := (1 : Byte) <<< f.bit

/-- `P.f <- b`: write one bit and leave the others (R7). -/
def setFlag (p : Byte) (f : Flag) (b : Bool) : Byte := if b then p ||| f.mask else p &&& ~~~ f.mask

/-- `SetZN` on a status byte (R101). -/
def withZN (p v : Byte) : Byte := setFlag (setFlag p .z (v == 0)) .n (v.getLsbD 7)

/-- `P.f <- b` on the state. -/
def State.putFlag (s : State) (f : Flag) (b : Bool) : State := s.setP (setFlag s.p f b)

/-- `SetZN(v)` (R101). -/
def State.setZN (s : State) (v : Byte) : State := s.setP (withZN s.p v)

/-- Carry as a number. -/
def carryIn (p : Byte) : Nat := (getFlag p .c).toNat

/-- The sum of R128, exact: 0 to 511. -/
def adcSum (a m p : Byte) : Nat := a.toNat + m.toNat + carryIn p

/-- `AddWithCarry` (R128): the 8-bit sum and the status byte. Binary whatever D holds (D17). -/
def addWithCarry (a m p : Byte) : Byte × Byte :=
  let sum := adcSum a m p
  let r := BitVec.ofNat 8 sum
  let p1 := setFlag p .c (decide (0xFF < sum))
  let p2 := setFlag p1 .v ((~~~ (a ^^^ m)) &&& (a ^^^ r) &&& 0x80 != 0)
  (r, withZN p2 r)

/-- `Compare` (R129): the status byte after comparing register value `r` with `m`. -/
def compareFlags (r m p : Byte) : Byte := withZN (setFlag p .c (decide (m.toNat ≤ r.toNat))) (r - m)

/-- The status byte after BIT (R138): Z from the AND, V and N from the memory byte. -/
def bitFlags (a m p : Byte) : Byte :=
  setFlag (setFlag (setFlag p .z (a &&& m == 0)) .v (m.getLsbD 6)) .n (m.getLsbD 7)

/-- ASL (R150): result and carry out. -/
def aslOp (v : Byte) (_cin : Bool) : Byte × Bool := (v <<< 1, v.getLsbD 7)

/-- LSR (R151). -/
def lsrOp (v : Byte) (_cin : Bool) : Byte × Bool := (v >>> 1, v.getLsbD 0)

/-- ROL (R152): the old carry enters bit 0. -/
def rolOp (v : Byte) (cin : Bool) : Byte × Bool := ((v <<< 1) ||| (BitVec.ofBool cin).setWidth 8, v.getLsbD 7)

/-- ROR (R153): the old carry enters bit 7. -/
def rorOp (v : Byte) (cin : Bool) : Byte × Bool :=
  ((v >>> 1) ||| ((BitVec.ofBool cin).setWidth 8 <<< 7), v.getLsbD 0)

/-- A shift or rotate on a value: the result, and the state with C, Z and N set (file 43, common shape). -/
def shiftWith (op : Byte → Bool → Byte × Bool) (v : Byte) (s : State) : Byte × State :=
  let (r, cout) := op v (getFlag s.p .c)
  (r, (s.putFlag .c cout).setZN r)

end Sys2Proof.Machine
end

