-- ==== Sys2Proof/Machine/Operands.lean ====
section
/-!
DEFINITION. The addressing-mode resolver (AMR, R84 to R97) and the shapes the instructions share: read an operand,
store, read-modify-write, accumulator, implied, branch, jump (R98, R99).

The operand bytes have been read by the step (`fetchOperands`), so the resolver starts from the assembled operand, in
the state whose `PC` is already past them; what remains to it are the pointer reads and the address computation.
-/

namespace Sys2Proof.Machine

/-- `page(a)` of R7. -/
def page (a : Word) : Word := a &&& 0xFF00

/-- A zero-page address (R88). -/
def zeroPage (b : Byte) : Word := joinBytes 0x00 b

/-- Base plus an unsigned 8-bit index, wrapping at 16 bits (R62, R92). -/
def indexed (base : Word) (i : Byte) : Word := base + i.setWidth 16

/-- The cross bit of an indexed address (R92). -/
def crosses (base addr : Word) : Bool := page addr != page base

/-- The branch target: `PC` plus the sign-extended displacement (R97). -/
def branchTarget (pc : Word) (d : Byte) : Word := pc + d.signExtend 16

/-- The address of the high byte of an indirect jump's pointer: only the low byte is incremented (R94). -/
def pointerHigh (ptr : Word) : Word := joinBytes (highByte ptr) (lowByte ptr + 1)

/-- What the resolver gives (R84): address, cross bit, and the state after its pointer reads. -/
structure Resolved where
  addr : Word
  crossed : Bool
  state : State
  deriving DecidableEq, Repr

/-- `Resolve` (R84). For the modes without an address (IMP, ACC, UNK) and for IMM, whose byte is the operand itself and
has been read, the address is 0 and no meaning uses it. -/
def resolve (o : Operand) (s : State) : Resolved :=
  match o with
  | .imp | .acc | .unk | .imm _ => ⟨0, false, s⟩
  | .zp b => ⟨zeroPage b, false, s⟩
  | .zpx b => ⟨zeroPage (b + s.x), false, s⟩
  | .zpy b => ⟨zeroPage (b + s.y), false, s⟩
  | .abs a => ⟨a, false, s⟩
  | .abx a => ⟨indexed a s.x, crosses a (indexed a s.x), s⟩
  | .aby a => ⟨indexed a s.y, crosses a (indexed a s.y), s⟩
  | .ind ptr =>
    let (w, s1) := readWord s ptr (pointerHigh ptr)
    ⟨w, false, s1⟩
  | .izx b =>
    let (w, s1) := readWord s (zeroPage (b + s.x)) (zeroPage (b + s.x + 1))
    ⟨w, false, s1⟩
  | .izy b =>
    let (w, s1) := readWord s (zeroPage b) (zeroPage (b + 1))
    ⟨indexed w s.y, crosses w (indexed w s.y), s1⟩
  | .rel d => ⟨branchTarget s.pc d, crosses s.pc (branchTarget s.pc d), s⟩

/-- `Resolve(mode)` (R84) from the state after the opcode fetch, the operand bytes fetched by it. IMM gives the byte's own
location and does not read it (R87). -/
def resolveMode (m : Mode) (s : State) : Resolved :=
  if m = .imm then ⟨s.pc, false, s.setPc (s.pc + 1)⟩
  else
    let (b1, b2, s1) := fetchBytes m.length s
    resolve (m.assembled b1 b2) s1

/-- `M <- MemRead(addr, 1)` (R98): the operand byte, the cross bit and the state after the read. The byte of an
immediate operand has been read with the instruction (R87). -/
def readOperand (o : Operand) (s : State) : Byte × Bool × State :=
  match o with
  | .imm v => (v, false, s)
  | o =>
    let r := resolve o s
    let (m, s1) := memRead r.state r.addr
    (m, r.crossed, s1)

/-- The outcome of a step. -/
abbrev Outcome := Host.Outcome State Fault Refusal

/-- Complete an instruction: step 6 (R99) on the state its behaviour left, by its row of the default table. `taken` says
that it is a branch and went to its target. -/
def complete (c : Configuration) (i : Instr) (crossed taken : Bool) (s : State) : Outcome :=
  .next (s.addCycles (i.form.definition.cost c.branchCrossExtra crossed taken))

/-- A behaviour that reads its address (`M`, R98) and acts on the state with the byte. -/
def readAt (f : Byte → State → State) (r : Resolved) : State :=
  let (m, s1) := memRead r.state r.addr
  f m s1

/-- A behaviour that stores a byte at its address, without reading it (R113). -/
def storeAt (src : State → Byte) (r : Resolved) : State := memWrite r.state r.addr (src r.state)

/-- A behaviour that reads its address, computes, and writes the result back (R50, R139): one read, one write. -/
def modifyAt (f : Byte → State → Byte × State) (r : Resolved) : State :=
  let (m, s1) := memRead r.state r.addr
  let (v, s2) := f m s1
  memWrite s2 r.addr v

/-- The same in mode ACC (R86): the operand is A, the result goes to A, no bus transaction. -/
def modifyA (f : Byte → State → Byte × State) (s : State) : State :=
  let (v, s1) := f s.a s
  s1.setA v

/-- The behaviour of a conditional branch (R163), and whether it is taken. -/
def branchAt (cond : Bool) (r : Resolved) : State × Bool :=
  if cond then (r.state.setPc r.addr, true) else (r.state, false)

/-- An instruction that reads its operand byte `M` and acts on the state with it. -/
def execRead (i : Instr) (f : Byte → State → State) (s : State) : Outcome :=
  let (m, crossed, s1) := readOperand i.operand s
  complete s.config i crossed false (f m s1)

/-- An instruction that stores a byte at its address. -/
def execStore (i : Instr) (src : State → Byte) (s : State) : Outcome :=
  let r := resolve i.operand s
  complete s.config i r.crossed false (storeAt src r)

/-- An instruction that reads its address, computes, and writes the result back. -/
def execModify (i : Instr) (f : Byte → State → Byte × State) (s : State) : Outcome :=
  let r := resolve i.operand s
  complete s.config i r.crossed false (modifyAt f r)

/-- The accumulator form of a shift or rotate (file 43, common shape). -/
def execAccumulator (i : Instr) (f : Byte → State → Byte × State) (s : State) : Outcome :=
  complete s.config i false false (modifyA f s)

/-- An instruction without an operand. -/
def execImplied (i : Instr) (f : State → State) (s : State) : Outcome := complete s.config i false false (f s)

/-- A conditional branch (R163). -/
def execBranch (i : Instr) (cond : Bool) (s : State) : Outcome :=
  let r := resolve i.operand s
  let (t, taken) := branchAt cond r
  complete s.config i r.crossed taken t

/-- An instruction that acts on the state with its resolved address: JMP, JSR. -/
def execAddress (i : Instr) (f : Word → State → State) (s : State) : Outcome :=
  let r := resolve i.operand s
  complete s.config i r.crossed false (f r.addr r.state)

end Sys2Proof.Machine
end

