-- ==== Sys2Proof/Machine/Arithmetic.lean ====
section
/-!
DEFINITION. The meanings of the instructions of file 42: arithmetic, logic, compare, bit test, increment, decrement (R128 to R144).
First what each mnemonic does to the state (its behaviour, shared by its forms, R64); then one meaning per form.
-/

namespace Sys2Proof.Machine

/-- ADC (R130): `AddWithCarry(M)`. -/
def addM (m : Byte) (s : State) : State :=
  let (r, p) := addWithCarry s.a m s.p
  (s.setA r).setP p

/-- SBC (R131): `AddWithCarry(M ^ 0xFF)`. -/
def subtractM (m : Byte) (s : State) : State := addM (m ^^^ 0xFF) s

/-- AND (R132). -/
def andM (m : Byte) (s : State) : State := (s.setA (s.a &&& m)).setZN (s.a &&& m)

/-- ORA (R133). -/
def orM (m : Byte) (s : State) : State := (s.setA (s.a ||| m)).setZN (s.a ||| m)

/-- EOR (R134). -/
def xorM (m : Byte) (s : State) : State := (s.setA (s.a ^^^ m)).setZN (s.a ^^^ m)

/-- CMP (R135): `Compare(A, M)`. -/
def compareA (m : Byte) (s : State) : State := s.setP (compareFlags s.a m s.p)

/-- CPX (R136). -/
def compareX (m : Byte) (s : State) : State := s.setP (compareFlags s.x m s.p)

/-- CPY (R137). -/
def compareY (m : Byte) (s : State) : State := s.setP (compareFlags s.y m s.p)

/-- BIT (R138). -/
def bitTest (m : Byte) (s : State) : State := s.setP (bitFlags s.a m s.p)

/-- INC (R139): the byte written back, and Z and N from it. -/
def increment (m : Byte) (s : State) : Byte × State := (m + 1, s.setZN (m + 1))

/-- DEC (R140). -/
def decrement (m : Byte) (s : State) : Byte × State := (m - 1, s.setZN (m - 1))

/-- INX (R141). -/
def incrementX (s : State) : State := (s.setX (s.x + 1)).setZN (s.x + 1)

/-- INY (R142). -/
def incrementY (s : State) : State := (s.setY (s.y + 1)).setZN (s.y + 1)

/-- DEX (R143). -/
def decrementX (s : State) : State := (s.setX (s.x - 1)).setZN (s.x - 1)

/-- DEY (R144). -/
def decrementY (s : State) : State := (s.setY (s.y - 1)).setZN (s.y - 1)

/-- ADC immediate, `0x69`: R130, R87. -/
def execAdcImm (v : Byte) (s : State) : Outcome := execRead (.adcImm v) addM s

/-- ADC zero page, `0x65`: R130, R88. -/
def execAdcZp (b : Byte) (s : State) : Outcome := execRead (.adcZp b) addM s

/-- ADC zero page,X, `0x75`: R130, R89. -/
def execAdcZpx (b : Byte) (s : State) : Outcome := execRead (.adcZpx b) addM s

/-- ADC absolute, `0x6D`: R130, R91. -/
def execAdcAbs (a : Word) (s : State) : Outcome := execRead (.adcAbs a) addM s

/-- ADC absolute,X, `0x7D`: R130, page-cross class, R92. -/
def execAdcAbx (a : Word) (s : State) : Outcome := execRead (.adcAbx a) addM s

/-- ADC absolute,Y, `0x79`: R130, page-cross class, R93. -/
def execAdcAby (a : Word) (s : State) : Outcome := execRead (.adcAby a) addM s

/-- ADC (zero page,X), `0x61`: R130, R95. -/
def execAdcIzx (b : Byte) (s : State) : Outcome := execRead (.adcIzx b) addM s

/-- ADC (zero page),Y, `0x71`: R130, page-cross class, R96. -/
def execAdcIzy (b : Byte) (s : State) : Outcome := execRead (.adcIzy b) addM s

/-- SBC immediate, `0xE9`: R131, R87. -/
def execSbcImm (v : Byte) (s : State) : Outcome := execRead (.sbcImm v) subtractM s

/-- SBC zero page, `0xE5`: R131, R88. -/
def execSbcZp (b : Byte) (s : State) : Outcome := execRead (.sbcZp b) subtractM s

/-- SBC zero page,X, `0xF5`: R131, R89. -/
def execSbcZpx (b : Byte) (s : State) : Outcome := execRead (.sbcZpx b) subtractM s

/-- SBC absolute, `0xED`: R131, R91. -/
def execSbcAbs (a : Word) (s : State) : Outcome := execRead (.sbcAbs a) subtractM s

/-- SBC absolute,X, `0xFD`: R131, page-cross class, R92. -/
def execSbcAbx (a : Word) (s : State) : Outcome := execRead (.sbcAbx a) subtractM s

/-- SBC absolute,Y, `0xF9`: R131, page-cross class, R93. -/
def execSbcAby (a : Word) (s : State) : Outcome := execRead (.sbcAby a) subtractM s

/-- SBC (zero page,X), `0xE1`: R131, R95. -/
def execSbcIzx (b : Byte) (s : State) : Outcome := execRead (.sbcIzx b) subtractM s

/-- SBC (zero page),Y, `0xF1`: R131, page-cross class, R96. -/
def execSbcIzy (b : Byte) (s : State) : Outcome := execRead (.sbcIzy b) subtractM s

/-- AND immediate, `0x29`: R132, R87. -/
def execAndImm (v : Byte) (s : State) : Outcome := execRead (.andImm v) andM s

/-- AND zero page, `0x25`: R132, R88. -/
def execAndZp (b : Byte) (s : State) : Outcome := execRead (.andZp b) andM s

/-- AND zero page,X, `0x35`: R132, R89. -/
def execAndZpx (b : Byte) (s : State) : Outcome := execRead (.andZpx b) andM s

/-- AND absolute, `0x2D`: R132, R91. -/
def execAndAbs (a : Word) (s : State) : Outcome := execRead (.andAbs a) andM s

/-- AND absolute,X, `0x3D`: R132, page-cross class, R92. -/
def execAndAbx (a : Word) (s : State) : Outcome := execRead (.andAbx a) andM s

/-- AND absolute,Y, `0x39`: R132, page-cross class, R93. -/
def execAndAby (a : Word) (s : State) : Outcome := execRead (.andAby a) andM s

/-- AND (zero page,X), `0x21`: R132, R95. -/
def execAndIzx (b : Byte) (s : State) : Outcome := execRead (.andIzx b) andM s

/-- AND (zero page),Y, `0x31`: R132, page-cross class, R96. -/
def execAndIzy (b : Byte) (s : State) : Outcome := execRead (.andIzy b) andM s

/-- ORA immediate, `0x09`: R133, R87. -/
def execOraImm (v : Byte) (s : State) : Outcome := execRead (.oraImm v) orM s

/-- ORA zero page, `0x05`: R133, R88. -/
def execOraZp (b : Byte) (s : State) : Outcome := execRead (.oraZp b) orM s

/-- ORA zero page,X, `0x15`: R133, R89. -/
def execOraZpx (b : Byte) (s : State) : Outcome := execRead (.oraZpx b) orM s

/-- ORA absolute, `0x0D`: R133, R91. -/
def execOraAbs (a : Word) (s : State) : Outcome := execRead (.oraAbs a) orM s

/-- ORA absolute,X, `0x1D`: R133, page-cross class, R92. -/
def execOraAbx (a : Word) (s : State) : Outcome := execRead (.oraAbx a) orM s

/-- ORA absolute,Y, `0x19`: R133, page-cross class, R93. -/
def execOraAby (a : Word) (s : State) : Outcome := execRead (.oraAby a) orM s

/-- ORA (zero page,X), `0x01`: R133, R95. -/
def execOraIzx (b : Byte) (s : State) : Outcome := execRead (.oraIzx b) orM s

/-- ORA (zero page),Y, `0x11`: R133, page-cross class, R96. -/
def execOraIzy (b : Byte) (s : State) : Outcome := execRead (.oraIzy b) orM s

/-- EOR immediate, `0x49`: R134, R87. -/
def execEorImm (v : Byte) (s : State) : Outcome := execRead (.eorImm v) xorM s

/-- EOR zero page, `0x45`: R134, R88. -/
def execEorZp (b : Byte) (s : State) : Outcome := execRead (.eorZp b) xorM s

/-- EOR zero page,X, `0x55`: R134, R89. -/
def execEorZpx (b : Byte) (s : State) : Outcome := execRead (.eorZpx b) xorM s

/-- EOR absolute, `0x4D`: R134, R91. -/
def execEorAbs (a : Word) (s : State) : Outcome := execRead (.eorAbs a) xorM s

/-- EOR absolute,X, `0x5D`: R134, page-cross class, R92. -/
def execEorAbx (a : Word) (s : State) : Outcome := execRead (.eorAbx a) xorM s

/-- EOR absolute,Y, `0x59`: R134, page-cross class, R93. -/
def execEorAby (a : Word) (s : State) : Outcome := execRead (.eorAby a) xorM s

/-- EOR (zero page,X), `0x41`: R134, R95. -/
def execEorIzx (b : Byte) (s : State) : Outcome := execRead (.eorIzx b) xorM s

/-- EOR (zero page),Y, `0x51`: R134, page-cross class, R96. -/
def execEorIzy (b : Byte) (s : State) : Outcome := execRead (.eorIzy b) xorM s

/-- CMP immediate, `0xC9`: R135, R87. -/
def execCmpImm (v : Byte) (s : State) : Outcome := execRead (.cmpImm v) compareA s

/-- CMP zero page, `0xC5`: R135, R88. -/
def execCmpZp (b : Byte) (s : State) : Outcome := execRead (.cmpZp b) compareA s

/-- CMP zero page,X, `0xD5`: R135, R89. -/
def execCmpZpx (b : Byte) (s : State) : Outcome := execRead (.cmpZpx b) compareA s

/-- CMP absolute, `0xCD`: R135, R91. -/
def execCmpAbs (a : Word) (s : State) : Outcome := execRead (.cmpAbs a) compareA s

/-- CMP absolute,X, `0xDD`: R135, page-cross class, R92. -/
def execCmpAbx (a : Word) (s : State) : Outcome := execRead (.cmpAbx a) compareA s

/-- CMP absolute,Y, `0xD9`: R135, page-cross class, R93. -/
def execCmpAby (a : Word) (s : State) : Outcome := execRead (.cmpAby a) compareA s

/-- CMP (zero page,X), `0xC1`: R135, R95. -/
def execCmpIzx (b : Byte) (s : State) : Outcome := execRead (.cmpIzx b) compareA s

/-- CMP (zero page),Y, `0xD1`: R135, page-cross class, R96. -/
def execCmpIzy (b : Byte) (s : State) : Outcome := execRead (.cmpIzy b) compareA s

/-- CPX immediate, `0xE0`: R136, R87. -/
def execCpxImm (v : Byte) (s : State) : Outcome := execRead (.cpxImm v) compareX s

/-- CPX zero page, `0xE4`: R136, R88. -/
def execCpxZp (b : Byte) (s : State) : Outcome := execRead (.cpxZp b) compareX s

/-- CPX absolute, `0xEC`: R136, R91. -/
def execCpxAbs (a : Word) (s : State) : Outcome := execRead (.cpxAbs a) compareX s

/-- CPY immediate, `0xC0`: R137, R87. -/
def execCpyImm (v : Byte) (s : State) : Outcome := execRead (.cpyImm v) compareY s

/-- CPY zero page, `0xC4`: R137, R88. -/
def execCpyZp (b : Byte) (s : State) : Outcome := execRead (.cpyZp b) compareY s

/-- CPY absolute, `0xCC`: R137, R91. -/
def execCpyAbs (a : Word) (s : State) : Outcome := execRead (.cpyAbs a) compareY s

/-- BIT zero page, `0x24`: R138, R88. -/
def execBitZp (b : Byte) (s : State) : Outcome := execRead (.bitZp b) bitTest s

/-- BIT absolute, `0x2C`: R138, R91. -/
def execBitAbs (a : Word) (s : State) : Outcome := execRead (.bitAbs a) bitTest s

/-- INC zero page, `0xE6`: R139, R88. -/
def execIncZp (b : Byte) (s : State) : Outcome := execModify (.incZp b) increment s

/-- INC zero page,X, `0xF6`: R139, R89. -/
def execIncZpx (b : Byte) (s : State) : Outcome := execModify (.incZpx b) increment s

/-- INC absolute, `0xEE`: R139, R91. -/
def execIncAbs (a : Word) (s : State) : Outcome := execModify (.incAbs a) increment s

/-- INC absolute,X, `0xFE`: R139, R92. -/
def execIncAbx (a : Word) (s : State) : Outcome := execModify (.incAbx a) increment s

/-- DEC zero page, `0xC6`: R140, R88. -/
def execDecZp (b : Byte) (s : State) : Outcome := execModify (.decZp b) decrement s

/-- DEC zero page,X, `0xD6`: R140, R89. -/
def execDecZpx (b : Byte) (s : State) : Outcome := execModify (.decZpx b) decrement s

/-- DEC absolute, `0xCE`: R140, R91. -/
def execDecAbs (a : Word) (s : State) : Outcome := execModify (.decAbs a) decrement s

/-- DEC absolute,X, `0xDE`: R140, R92. -/
def execDecAbx (a : Word) (s : State) : Outcome := execModify (.decAbx a) decrement s

/-- INX implied, `0xE8`: R141, R85. -/
def execInx (s : State) : Outcome := execImplied .inx incrementX s

/-- INY implied, `0xC8`: R142, R85. -/
def execIny (s : State) : Outcome := execImplied .iny incrementY s

/-- DEX implied, `0xCA`: R143, R85. -/
def execDex (s : State) : Outcome := execImplied .dex decrementX s

/-- DEY implied, `0x88`: R144, R85. -/
def execDey (s : State) : Outcome := execImplied .dey decrementY s

end Sys2Proof.Machine
end

