-- ==== Sys2Proof/Machine/Control.lean ====
section
/-!
DEFINITION. The meanings of the instructions of file 44: jumps, call and return, conditional branches (R160 to R171).
First what each mnemonic does to the state (its behaviour, shared by its forms, R64); then one meaning per form.
-/

namespace Sys2Proof.Machine

/-- JMP (R160): `PC <- addr`. -/
def jumpTo (addr : Word) (s : State) : State := s.setPc addr

/-- JSR (R161): push the address of the instruction's last byte, then jump. -/
def callTo (addr : Word) (s : State) : State := (pushWord s (s.pc - 1)).setPc addr

/-- RTS (R162): pull an address and continue one past it. -/
def returnFromCall (s : State) : State :=
  let (w, s1) := pullWord s
  s1.setPc (w + 1)

/-- JMP absolute, `0x4C`: R160, R91. -/
def execJmpAbs (a : Word) (s : State) : Outcome := execAddress (.jmpAbs a) jumpTo s

/-- JMP (absolute), `0x6C`: R160, R94. -/
def execJmpInd (a : Word) (s : State) : Outcome := execAddress (.jmpInd a) jumpTo s

/-- JSR absolute, `0x20`: R161, R91. -/
def execJsr (a : Word) (s : State) : Outcome := execAddress (.jsr a) callTo s

/-- RTS implied, `0x60`: R162, R85. -/
def execRts (s : State) : Outcome := execImplied .rts returnFromCall s

/-- BCC relative, `0x90`: R164, R163, R97. -/
def execBcc (d : Byte) (s : State) : Outcome := execBranch (.bcc d) (getFlag s.p .c == false) s

/-- BCS relative, `0xB0`: R165, R163, R97. -/
def execBcs (d : Byte) (s : State) : Outcome := execBranch (.bcs d) (getFlag s.p .c == true) s

/-- BEQ relative, `0xF0`: R166, R163, R97. -/
def execBeq (d : Byte) (s : State) : Outcome := execBranch (.beq d) (getFlag s.p .z == true) s

/-- BNE relative, `0xD0`: R167, R163, R97. -/
def execBne (d : Byte) (s : State) : Outcome := execBranch (.bne d) (getFlag s.p .z == false) s

/-- BMI relative, `0x30`: R168, R163, R97. -/
def execBmi (d : Byte) (s : State) : Outcome := execBranch (.bmi d) (getFlag s.p .n == true) s

/-- BPL relative, `0x10`: R169, R163, R97. -/
def execBpl (d : Byte) (s : State) : Outcome := execBranch (.bpl d) (getFlag s.p .n == false) s

/-- BVC relative, `0x50`: R170, R163, R97. -/
def execBvc (d : Byte) (s : State) : Outcome := execBranch (.bvc d) (getFlag s.p .v == false) s

/-- BVS relative, `0x70`: R171, R163, R97. -/
def execBvs (d : Byte) (s : State) : Outcome := execBranch (.bvs d) (getFlag s.p .v == true) s

end Sys2Proof.Machine
end

