-- ==== Sys2Proof/Machine/LoadStore.lean ====
section
/-!
DEFINITION. The meanings of the instructions of file 41: loads, stores, register transfers (R110 to R121).
First what each mnemonic does to the state (its behaviour, shared by its forms, R64); then one meaning per form.
-/

namespace Sys2Proof.Machine

/-- LDA (R110): `A <- M ; SetZN(A)`. -/
def loadA (m : Byte) (s : State) : State := (s.setA m).setZN m

/-- LDX (R111). -/
def loadX (m : Byte) (s : State) : State := (s.setX m).setZN m

/-- LDY (R112). -/
def loadY (m : Byte) (s : State) : State := (s.setY m).setZN m

/-- TAX (R116). -/
def transferAX (s : State) : State := loadX s.a s

/-- TAY (R117). -/
def transferAY (s : State) : State := loadY s.a s

/-- TXA (R118). -/
def transferXA (s : State) : State := loadA s.x s

/-- TYA (R119). -/
def transferYA (s : State) : State := loadA s.y s

/-- TSX (R120). -/
def transferSX (s : State) : State := loadX s.sp s

/-- TXS (R121): the one transfer that sets no flag. -/
def transferXS (s : State) : State := s.setSp s.x

/-- LDA immediate, `0xA9`: R110, R87. -/
def execLdaImm (v : Byte) (s : State) : Outcome := execRead (.ldaImm v) loadA s

/-- LDA zero page, `0xA5`: R110, R88. -/
def execLdaZp (b : Byte) (s : State) : Outcome := execRead (.ldaZp b) loadA s

/-- LDA zero page,X, `0xB5`: R110, R89. -/
def execLdaZpx (b : Byte) (s : State) : Outcome := execRead (.ldaZpx b) loadA s

/-- LDA absolute, `0xAD`: R110, R91. -/
def execLdaAbs (a : Word) (s : State) : Outcome := execRead (.ldaAbs a) loadA s

/-- LDA absolute,X, `0xBD`: R110, page-cross class, R92. -/
def execLdaAbx (a : Word) (s : State) : Outcome := execRead (.ldaAbx a) loadA s

/-- LDA absolute,Y, `0xB9`: R110, page-cross class, R93. -/
def execLdaAby (a : Word) (s : State) : Outcome := execRead (.ldaAby a) loadA s

/-- LDA (zero page,X), `0xA1`: R110, R95. -/
def execLdaIzx (b : Byte) (s : State) : Outcome := execRead (.ldaIzx b) loadA s

/-- LDA (zero page),Y, `0xB1`: R110, page-cross class, R96. -/
def execLdaIzy (b : Byte) (s : State) : Outcome := execRead (.ldaIzy b) loadA s

/-- LDX immediate, `0xA2`: R111, R87. -/
def execLdxImm (v : Byte) (s : State) : Outcome := execRead (.ldxImm v) loadX s

/-- LDX zero page, `0xA6`: R111, R88. -/
def execLdxZp (b : Byte) (s : State) : Outcome := execRead (.ldxZp b) loadX s

/-- LDX zero page,Y, `0xB6`: R111, R90. -/
def execLdxZpy (b : Byte) (s : State) : Outcome := execRead (.ldxZpy b) loadX s

/-- LDX absolute, `0xAE`: R111, R91. -/
def execLdxAbs (a : Word) (s : State) : Outcome := execRead (.ldxAbs a) loadX s

/-- LDX absolute,Y, `0xBE`: R111, page-cross class, R93. -/
def execLdxAby (a : Word) (s : State) : Outcome := execRead (.ldxAby a) loadX s

/-- LDY immediate, `0xA0`: R112, R87. -/
def execLdyImm (v : Byte) (s : State) : Outcome := execRead (.ldyImm v) loadY s

/-- LDY zero page, `0xA4`: R112, R88. -/
def execLdyZp (b : Byte) (s : State) : Outcome := execRead (.ldyZp b) loadY s

/-- LDY zero page,X, `0xB4`: R112, R89. -/
def execLdyZpx (b : Byte) (s : State) : Outcome := execRead (.ldyZpx b) loadY s

/-- LDY absolute, `0xAC`: R112, R91. -/
def execLdyAbs (a : Word) (s : State) : Outcome := execRead (.ldyAbs a) loadY s

/-- LDY absolute,X, `0xBC`: R112, page-cross class, R92. -/
def execLdyAbx (a : Word) (s : State) : Outcome := execRead (.ldyAbx a) loadY s

/-- STA zero page, `0x85`: R113, R88. -/
def execStaZp (b : Byte) (s : State) : Outcome := execStore (.staZp b) State.a s

/-- STA zero page,X, `0x95`: R113, R89. -/
def execStaZpx (b : Byte) (s : State) : Outcome := execStore (.staZpx b) State.a s

/-- STA absolute, `0x8D`: R113, R91. -/
def execStaAbs (a : Word) (s : State) : Outcome := execStore (.staAbs a) State.a s

/-- STA absolute,X, `0x9D`: R113, R92. -/
def execStaAbx (a : Word) (s : State) : Outcome := execStore (.staAbx a) State.a s

/-- STA absolute,Y, `0x99`: R113, R93. -/
def execStaAby (a : Word) (s : State) : Outcome := execStore (.staAby a) State.a s

/-- STA (zero page,X), `0x81`: R113, R95. -/
def execStaIzx (b : Byte) (s : State) : Outcome := execStore (.staIzx b) State.a s

/-- STA (zero page),Y, `0x91`: R113, R96. -/
def execStaIzy (b : Byte) (s : State) : Outcome := execStore (.staIzy b) State.a s

/-- STX zero page, `0x86`: R114, R88. -/
def execStxZp (b : Byte) (s : State) : Outcome := execStore (.stxZp b) State.x s

/-- STX zero page,Y, `0x96`: R114, R90. -/
def execStxZpy (b : Byte) (s : State) : Outcome := execStore (.stxZpy b) State.x s

/-- STX absolute, `0x8E`: R114, R91. -/
def execStxAbs (a : Word) (s : State) : Outcome := execStore (.stxAbs a) State.x s

/-- STY zero page, `0x84`: R115, R88. -/
def execStyZp (b : Byte) (s : State) : Outcome := execStore (.styZp b) State.y s

/-- STY zero page,X, `0x94`: R115, R89. -/
def execStyZpx (b : Byte) (s : State) : Outcome := execStore (.styZpx b) State.y s

/-- STY absolute, `0x8C`: R115, R91. -/
def execStyAbs (a : Word) (s : State) : Outcome := execStore (.styAbs a) State.y s

/-- TAX implied, `0xAA`: R116, R85. -/
def execTax (s : State) : Outcome := execImplied .tax transferAX s

/-- TAY implied, `0xA8`: R117, R85. -/
def execTay (s : State) : Outcome := execImplied .tay transferAY s

/-- TXA implied, `0x8A`: R118, R85. -/
def execTxa (s : State) : Outcome := execImplied .txa transferXA s

/-- TYA implied, `0x98`: R119, R85. -/
def execTya (s : State) : Outcome := execImplied .tya transferYA s

/-- TSX implied, `0xBA`: R120, R85. -/
def execTsx (s : State) : Outcome := execImplied .tsx transferSX s

/-- TXS implied, `0x9A`: R121, R85. -/
def execTxs (s : State) : Outcome := execImplied .txs transferXS s

end Sys2Proof.Machine
end

