-- ==== Sys2Proof/Machine/Shift.lean ====
section
/-!
DEFINITION. The meanings of the instructions of file 43: shifts and rotates (R150 to R153).
First what each mnemonic does to the state (its behaviour, shared by its forms, R64); then one meaning per form.
-/

namespace Sys2Proof.Machine

/-- ASL (R150). -/
def shiftLeft (v : Byte) (s : State) : Byte × State := shiftWith aslOp v s

/-- LSR (R151). -/
def shiftRight (v : Byte) (s : State) : Byte × State := shiftWith lsrOp v s

/-- ROL (R152). -/
def rotateLeft (v : Byte) (s : State) : Byte × State := shiftWith rolOp v s

/-- ROR (R153). -/
def rotateRight (v : Byte) (s : State) : Byte × State := shiftWith rorOp v s

/-- ASL accumulator, `0x0A`: R150, R86. -/
def execAslAcc (s : State) : Outcome := execAccumulator .aslAcc shiftLeft s

/-- ASL zero page, `0x06`: R150, R88. -/
def execAslZp (b : Byte) (s : State) : Outcome := execModify (.aslZp b) shiftLeft s

/-- ASL zero page,X, `0x16`: R150, R89. -/
def execAslZpx (b : Byte) (s : State) : Outcome := execModify (.aslZpx b) shiftLeft s

/-- ASL absolute, `0x0E`: R150, R91. -/
def execAslAbs (a : Word) (s : State) : Outcome := execModify (.aslAbs a) shiftLeft s

/-- ASL absolute,X, `0x1E`: R150, R92. -/
def execAslAbx (a : Word) (s : State) : Outcome := execModify (.aslAbx a) shiftLeft s

/-- LSR accumulator, `0x4A`: R151, R86. -/
def execLsrAcc (s : State) : Outcome := execAccumulator .lsrAcc shiftRight s

/-- LSR zero page, `0x46`: R151, R88. -/
def execLsrZp (b : Byte) (s : State) : Outcome := execModify (.lsrZp b) shiftRight s

/-- LSR zero page,X, `0x56`: R151, R89. -/
def execLsrZpx (b : Byte) (s : State) : Outcome := execModify (.lsrZpx b) shiftRight s

/-- LSR absolute, `0x4E`: R151, R91. -/
def execLsrAbs (a : Word) (s : State) : Outcome := execModify (.lsrAbs a) shiftRight s

/-- LSR absolute,X, `0x5E`: R151, R92. -/
def execLsrAbx (a : Word) (s : State) : Outcome := execModify (.lsrAbx a) shiftRight s

/-- ROL accumulator, `0x2A`: R152, R86. -/
def execRolAcc (s : State) : Outcome := execAccumulator .rolAcc rotateLeft s

/-- ROL zero page, `0x26`: R152, R88. -/
def execRolZp (b : Byte) (s : State) : Outcome := execModify (.rolZp b) rotateLeft s

/-- ROL zero page,X, `0x36`: R152, R89. -/
def execRolZpx (b : Byte) (s : State) : Outcome := execModify (.rolZpx b) rotateLeft s

/-- ROL absolute, `0x2E`: R152, R91. -/
def execRolAbs (a : Word) (s : State) : Outcome := execModify (.rolAbs a) rotateLeft s

/-- ROL absolute,X, `0x3E`: R152, R92. -/
def execRolAbx (a : Word) (s : State) : Outcome := execModify (.rolAbx a) rotateLeft s

/-- ROR accumulator, `0x6A`: R153, R86. -/
def execRorAcc (s : State) : Outcome := execAccumulator .rorAcc rotateRight s

/-- ROR zero page, `0x66`: R153, R88. -/
def execRorZp (b : Byte) (s : State) : Outcome := execModify (.rorZp b) rotateRight s

/-- ROR zero page,X, `0x76`: R153, R89. -/
def execRorZpx (b : Byte) (s : State) : Outcome := execModify (.rorZpx b) rotateRight s

/-- ROR absolute, `0x6E`: R153, R91. -/
def execRorAbs (a : Word) (s : State) : Outcome := execModify (.rorAbs a) rotateRight s

/-- ROR absolute,X, `0x7E`: R153, R92. -/
def execRorAbx (a : Word) (s : State) : Outcome := execModify (.rorAbx a) rotateRight s

end Sys2Proof.Machine
end

