-- ==== Sys2Proof/Machine/System.lean ====
section
/-!
DEFINITION. The meanings of the instructions of file 45: stack, flags, no operation, break, return from interrupt, unknown opcodes (R180 to R194).
First what each mnemonic does to the state (its behaviour, shared by its forms, R64); then one meaning per form.
-/

namespace Sys2Proof.Machine

/-- PHA (R180): `Push(A)`. -/
def pushA (s : State) : State := push s s.a

/-- PHP (R181): `Push(P | 0x10)`. -/
def pushP (s : State) : State := push s (pushedStatus s.p)

/-- PLA (R182): `A <- Pull() ; SetZN(A)`. -/
def pullA (s : State) : State :=
  let (v, s1) := pull s
  (s1.setA v).setZN v

/-- PLP (R183): `P <- (Pull() & 0xEF) | 0x20`. -/
def pullP (s : State) : State :=
  let (v, s1) := pull s
  s1.setP (restoredStatus v)

/-- BRK (R192): the software interrupt, returning to the opcode address + 2, one past the byte after the opcode. -/
def breakNow (s : State) : State := softwareInterrupt s (s.pc + 1)

/-- PHA implied, `0x48`: R180, R85. -/
def execPha (s : State) : Outcome := execImplied .pha pushA s

/-- PHP implied, `0x08`: R181, R85. -/
def execPhp (s : State) : Outcome := execImplied .php pushP s

/-- PLA implied, `0x68`: R182, R85. -/
def execPla (s : State) : Outcome := execImplied .pla pullA s

/-- PLP implied, `0x28`: R183, R85. -/
def execPlp (s : State) : Outcome := execImplied .plp pullP s

/-- CLC implied, `0x18`: R184, R85. -/
def execClc (s : State) : Outcome := execImplied .clc (fun t => t.putFlag .c false) s

/-- SEC implied, `0x38`: R185, R85. -/
def execSec (s : State) : Outcome := execImplied .sec (fun t => t.putFlag .c true) s

/-- CLI implied, `0x58`: R186, R85. -/
def execCli (s : State) : Outcome := execImplied .cli (fun t => t.putFlag .i false) s

/-- SEI implied, `0x78`: R187, R85. -/
def execSei (s : State) : Outcome := execImplied .sei (fun t => t.putFlag .i true) s

/-- CLD implied, `0xD8`: R188, R85. -/
def execCld (s : State) : Outcome := execImplied .cld (fun t => t.putFlag .d false) s

/-- SED implied, `0xF8`: R189, R85. -/
def execSed (s : State) : Outcome := execImplied .sed (fun t => t.putFlag .d true) s

/-- CLV implied, `0xB8`: R190, R85. -/
def execClv (s : State) : Outcome := execImplied .clv (fun t => t.putFlag .v false) s

/-- NOP implied, `0xEA`: R191, R85. -/
def execNop (s : State) : Outcome := execImplied .nop (fun t => t) s

/-- BRK implied, `0x00`: R192, R85. -/
def execBrk (s : State) : Outcome := execImplied .brk breakNow s

/-- RTI implied, `0x40`: R193, R85. -/
def execRti (s : State) : Outcome := execImplied .rti returnFromInterrupt s

/-- An unknown opcode: R194, R67: nothing but the cost. -/
def execUnknown (op : Byte) (s : State) : Outcome := execImplied (.unknown op) (fun t => t) s

end Sys2Proof.Machine
end

