-- ==== Sys2Proof/Machine/Configured.lean ====
section
/-!
DEFINITION. What a row of the configured opcode table does (R6 `OPCODE_TABLE`): any mnemonic in any mode, at any cost. Its
behaviour is the one the mnemonic has in the default table too (R64), its mode is resolved and its cost added as for every
definition (R84, R98, R99).
-/

namespace Sys2Proof.Machine

/-- INC, DEC, shifts and rotates (R86, R139, R150): on A in mode ACC, else on the byte at the address. -/
def modifyIn (mode : Mode) (f : Byte → State → Byte × State) (r : Resolved) : State :=
  if mode = .acc then modifyA f r.state else modifyAt f r

/-- `Execute` (R98): the behaviour of a mnemonic on the resolved address, and whether it is a branch taken. -/
def execute (m : Mnemonic) (mode : Mode) (r : Resolved) : State × Bool :=
  match m with
  | .lda => (readAt loadA r, false)
  | .ldx => (readAt loadX r, false)
  | .ldy => (readAt loadY r, false)
  | .sta => (storeAt State.a r, false)
  | .stx => (storeAt State.x r, false)
  | .sty => (storeAt State.y r, false)
  | .tax => (transferAX r.state, false)
  | .tay => (transferAY r.state, false)
  | .txa => (transferXA r.state, false)
  | .tya => (transferYA r.state, false)
  | .tsx => (transferSX r.state, false)
  | .txs => (transferXS r.state, false)
  | .adc => (readAt addM r, false)
  | .sbc => (readAt subtractM r, false)
  | .and => (readAt andM r, false)
  | .ora => (readAt orM r, false)
  | .eor => (readAt xorM r, false)
  | .cmp => (readAt compareA r, false)
  | .cpx => (readAt compareX r, false)
  | .cpy => (readAt compareY r, false)
  | .bit => (readAt bitTest r, false)
  | .inc => (modifyIn mode increment r, false)
  | .dec => (modifyIn mode decrement r, false)
  | .inx => (incrementX r.state, false)
  | .iny => (incrementY r.state, false)
  | .dex => (decrementX r.state, false)
  | .dey => (decrementY r.state, false)
  | .asl => (modifyIn mode shiftLeft r, false)
  | .lsr => (modifyIn mode shiftRight r, false)
  | .rol => (modifyIn mode rotateLeft r, false)
  | .ror => (modifyIn mode rotateRight r, false)
  | .jmp => (jumpTo r.addr r.state, false)
  | .jsr => (callTo r.addr r.state, false)
  | .rts => (returnFromCall r.state, false)
  | .bcc => branchAt (getFlag r.state.p .c == false) r
  | .bcs => branchAt (getFlag r.state.p .c == true) r
  | .beq => branchAt (getFlag r.state.p .z == true) r
  | .bne => branchAt (getFlag r.state.p .z == false) r
  | .bmi => branchAt (getFlag r.state.p .n == true) r
  | .bpl => branchAt (getFlag r.state.p .n == false) r
  | .bvc => branchAt (getFlag r.state.p .v == false) r
  | .bvs => branchAt (getFlag r.state.p .v == true) r
  | .pha => (pushA r.state, false)
  | .php => (pushP r.state, false)
  | .pla => (pullA r.state, false)
  | .plp => (pullP r.state, false)
  | .clc => (r.state.putFlag .c false, false)
  | .sec => (r.state.putFlag .c true, false)
  | .cli => (r.state.putFlag .i false, false)
  | .sei => (r.state.putFlag .i true, false)
  | .cld => (r.state.putFlag .d false, false)
  | .sed => (r.state.putFlag .d true, false)
  | .clv => (r.state.putFlag .v false, false)
  | .nop => (r.state, false)
  | .brk => (breakNow r.state, false)
  | .rti => (returnFromInterrupt r.state, false)
  | .unknown => (r.state, false)

/-- Steps 4 to 6 of a step (R84, R98, R99) for a definition, from the state after the opcode fetch. -/
def runDefinition (d : InstructionDef) (s : State) : State :=
  let r := resolveMode d.mode s
  let (t, taken) := execute d.mnemonic d.mode r
  t.addCycles (d.cost s.config.branchCrossExtra r.crossed taken)

end Sys2Proof.Machine
end

