-- ==== Sys2Proof/Machine/Step.lean ====
section
/-!
DEFINITION. One step of the machine (R80): the stages of Machine/Ops.lean around `exec` or a configured row, and the placing of an
instruction where the next step fetches it.
-/

namespace Sys2Proof.Machine

/-- `Step` (R80): note the start cycle and clear the log, fetch the opcode byte, execute its definition, emit the audit
record. A byte with a row in the configured table runs that row. Every other byte is the default table's, and the step
fetches its instruction and runs `exec`. -/
def step (s : State) : Host.Outcome State Fault Refusal :=
  let (op, s1) := fetch8 (beginStep s)
  match s.config.row op with
  | some d => .next (endStep op d.mnemonic (runDefinition d s1))
  | none =>
    let (i, s2) := fetchOperands op s1
    match exec i s2 with
    | .next t => .next (endStep op i.mnemonic t)
    | .fault f => .fault f
    | .refused r => .refused r

/-- The state with the instruction whose bits are `w` stored where the next step fetches it. -/
def State.withFetchWord (s : State) (nbits w : Nat) : State :=
  s.placeAtPc (tableByte (w % 2 ^ nbits) 0) (tableByte (w % 2 ^ nbits) 1) (tableByte (w % 2 ^ nbits) 2)

end Sys2Proof.Machine
end

