-- ==== Sys2Proof/Safety.lean ====
section
/-!
DEFINITION. The terms in which claims about the machine are stated: the invariant of every run, and what an instruction
keeps. A safe run needs no definition of its own, since no step faults or is refused (R105): that is a statement.
-/

namespace Sys2Proof.Machine

/-- What holds between steps in every run from a launch state. -/
structure Inv (s : State) : Prop where
  /-- the unused bit of `P` is set (R18) -/
  unused : getFlag s.p .u = true
  /-- `k` equals the length of `log` (R24, R27) -/
  count : s.k = s.log.length
  /-- the offsets in the log are 0, 1, 2, … without gaps (R45) -/
  offsets : s.log.map MicroOp.offset = List.range s.log.length
  /-- RAM is in its one form … -/
  ramForm : s.ram.wf = true
  /-- … and has 2048 cells (R23) -/
  ramSize : s.ram.within 2048 = true
  /-- the ROM buffer is in its one form … -/
  romForm : s.rom.wf = true
  /-- … within its length (R40) -/
  romSize : s.rom.within s.romLength = true
  /-- a fixed-ROM mapper holds a buffer of a supported length (R42) -/
  romSupported : s.mapper = .fixedRom → supportedRomLength s.romLength = true
  /-- the register window lies in `0x2000` to `0x7FFF` (R34) -/
  window : s.regWindow.all windowAddr = true
  /-- the configuration is one the model allows (R6, R99; log entry 13) -/
  config : s.config.wellFormed = true
  /-- every step since the last reset cost at least 2 cycles (R20, R27) -/
  cycles : Config.resetCycles + 2 * s.seq ≤ s.cycles

/-- The address is no device register: what is read there is memory or nothing. -/
def IsMemory (s : State) (addr : Word) : Prop := addr.toNat < 0x2000 ∨ addr ∉ s.regWindow

/-- Every byte of memory reads as before. -/
def KeepsMemory (s t : State) : Prop := ∀ addr, IsMemory s addr → memPeek t addr = memPeek s addr

/-- Two addresses name one cell that a store through one can change for a read through the other: the same RAM cell
(R32), or both in the cartridge window of a mapper that stores may change (R39). -/
def Aliases (s : State) (stored addr : Word) : Prop :=
  (stored.toNat < 0x2000 ∧ addr.toNat < 0x2000 ∧ stored.toNat % 2048 = addr.toNat % 2048) ∨
    (0x8000 ≤ stored.toNat ∧ 0x8000 ≤ addr.toNat ∧ s.mapper ≠ .fixedRom)

/-- Every byte of memory reads as before except at the stored addresses and what aliases them. -/
def KeepsMemoryBut (stored : List Word) (s t : State) : Prop :=
  ∀ addr, IsMemory s addr → (∀ w ∈ stored, ¬ Aliases s w addr) → memPeek t addr = memPeek s addr

/-- Every flag but the ones listed is unchanged. -/
def KeepsFlagsBut (fs : List Flag) (s t : State) : Prop := ∀ f, f ∉ fs → getFlag t.p f = getFlag s.p f

/-- The launch parameters, the counters of the step engine and the last audit record are unchanged. -/
def KeepsStepFields (s t : State) : Prop :=
  t.rom = s.rom ∧ t.romLength = s.romLength ∧ t.regWindow = s.regWindow ∧ t.device = s.device ∧
    t.config = s.config ∧ t.seq = s.seq ∧ t.startCycle = s.startCycle ∧ t.audit = s.audit

/-- `t` has the bus side of `u`: RAM, mapper, device, recorder. -/
def SameBus (u t : State) : Prop :=
  t.ram = u.ram ∧ t.mapper = u.mapper ∧ t.dev = u.dev ∧ t.log = u.log ∧ t.k = u.k

/-- Z and N are those of the byte `v` (R101). -/
def FlagsZN (v : Byte) (t : State) : Prop :=
  getFlag t.p .z = decide (v.toNat = 0) ∧ getFlag t.p .n = decide (128 ≤ v.toNat)

/-- The first of the rows that meets `p`. -/
def FirstRow {α : Type} (p : α → Prop) (rows : List α) (r : α) : Prop :=
  ∃ before after, rows = before ++ r :: after ∧ (∀ q ∈ before, ¬ p q) ∧ p r

/-- How a function given by rows answers (log entries 3 and 4): the first row that meets `p` gives its value, and where
no row does the answer is `free`. -/
def GivenByRows {α β : Type} (p : α → Prop) (value : α → β) (rows : List α) (free answer : β) : Prop :=
  (∀ r, FirstRow p rows r → answer = value r) ∧ ((∀ r ∈ rows, ¬ p r) → answer = free)

/-- The cost R99 adds for an instruction of the default table, but for the extra cycles of a taken branch. -/
def costOf (i : Instr) (crossed : Bool) : Nat :=
  i.form.baseCycles + (if i.form.penalty = .pageCross ∧ crossed = true then 1 else 0)

/-- The definition of the opcode byte at `PC`, by the configured table. -/
def definitionAtPc (s : State) : InstructionDef := s.config.definition (memPeek s s.pc)

/-- The condition of a branch holds (R164 to R171). -/
def BranchTaken (m : Mnemonic) (p : Byte) : Prop :=
  (m = .bcc ∧ getFlag p .c = false) ∨ (m = .bcs ∧ getFlag p .c = true) ∨
  (m = .beq ∧ getFlag p .z = true) ∨ (m = .bne ∧ getFlag p .z = false) ∨
  (m = .bmi ∧ getFlag p .n = true) ∨ (m = .bpl ∧ getFlag p .n = false) ∨
  (m = .bvc ∧ getFlag p .v = false) ∨ (m = .bvs ∧ getFlag p .v = true)

/-- The stack slot that lies `n` bytes above the one `S` names, within page one (R14). -/
def slotAbove (sp : Byte) (n : Nat) : Word := BitVec.ofNat 16 (0x0100 + (sp.toNat + n) % 256)

/-- The stack slot that lies `n` bytes below the one `S` names, within page one (R14). -/
def slotBelow (sp : Byte) (n : Nat) : Word := BitVec.ofNat 16 (0x0100 + (sp.toNat + 256 - n) % 256)

end Sys2Proof.Machine
end

