-- ==== Sys2Proof/Certificates/Slice0/Obligations.lean ====
section
/-!
DEFINITION. The statements for the provers, one `def Obligations.<Name> : Prop` each, in the terms of Safety.lean.
Statements about an instruction name it by its mnemonic, so that each covers all its forms; the operand byte of an
instruction is `(readOperand i.operand s).1` and its address `(resolve i.operand s).addr`, which statements of their own
say in numbers, mode by mode. Statements hold in every configuration (R6); where the spec gives a number that R6 lets a
configuration change, they say what the configuration gives and, for the default, the number.
-/

open Sys2Proof Sys2Proof.Machine

/-! ### Encoding -/

/-- R60, R61, R62, R67: the words of a well-formed instruction decode to it, and the bytes after them are left. -/
def Obligations.DecodeOfEncode : Prop :=
  ∀ (i : Instr) (rest : List Byte), i.WellFormed → decode (encode i ++ rest) = .ok (i, rest)

/-- R60, R63, R68: what decodes is well formed, and its words are the bytes it was read from. -/
def Obligations.EncodeOfDecode : Prop :=
  ∀ (bytes : List Byte) (i : Instr) (rest : List Byte),
    decode bytes = .ok (i, rest) → i.WellFormed ∧ encode i ++ rest = bytes

/-- R60, R69: byte 0 alone fixes the mnemonic, the addressing mode, the cost and the length, which is 1, 2 or 3; byte 0
is the opcode, all 8 bits of it. -/
def Obligations.OpcodeByteFixesForm : Prop :=
  ∀ b0 b1 b2 c1 c2 : Byte,
    (assemble b0 b1 b2).opcode = b0 ∧
    (assemble b0 b1 b2).mnemonic = (assemble b0 c1 c2).mnemonic ∧
    (assemble b0 b1 b2).operand.mode = (assemble b0 c1 c2).operand.mode ∧
    (assemble b0 b1 b2).form.baseCycles = (assemble b0 c1 c2).form.baseCycles ∧
    (assemble b0 b1 b2).form.penalty = (assemble b0 c1 c2).form.penalty ∧
    (assemble b0 b1 b2).length = lengthOf b0 ∧ 1 ≤ lengthOf b0 ∧ lengthOf b0 ≤ 3

/-- R65, R67: of the 256 opcode bytes 151 are supported in 56 mnemonics, 105 unknown, 23 of class `pageCross` and 8 of
class `branch`. Exactly the 105 listed bytes decode to the sentinel: mnemonic `???`, mode UNK, length 1, base cost 2,
penalty none. -/
def Obligations.UnknownOpcodesAreTheListed : Prop :=
  (let rows := (List.range 256).map fun n => (assemble (BitVec.ofNat 8 n) 0 0).form
   (rows.filter fun f => f.mnemonic ≠ .unknown).length = 151 ∧
   (rows.filter fun f => f.mnemonic = .unknown).length = 105 ∧
   (rows.filter fun f => f.penalty = .pageCross).length = 23 ∧
   (rows.filter fun f => f.penalty = .branch).length = 8 ∧
   ((rows.map fun f => f.mnemonic).dedup.filter fun m => m ≠ .unknown).length = 56) ∧
  unknownOpcodes.length = 105 ∧ unknownOpcodes.Nodup ∧
  ∀ op b1 b2 : Byte,
    ((assemble op b1 b2).mnemonic = .unknown ↔ op ∈ unknownOpcodes) ∧
    (op ∈ unknownOpcodes →
      assemble op b1 b2 = .unknown op ∧ (assemble op b1 b2).mnemonic.text = "???" ∧
      (assemble op b1 b2).operand = .unk ∧ lengthOf op = 1 ∧
      (assemble op b1 b2).form.baseCycles = 2 ∧ (assemble op b1 b2).form.penalty = .none)

/-- R70, R72: words the spec writes out decode to the instructions they stand for. -/
def Obligations.SpelledWordsDecode : Prop :=
  decode [0xA9, 0x05] = .ok (.ldaImm 0x05, []) ∧ decode [0x85, 0x10] = .ok (.staZp 0x10, []) ∧
  decode [0xB5, 0x10] = .ok (.ldaZpx 0x10, []) ∧ decode [0xB6, 0x10] = .ok (.ldxZpy 0x10, []) ∧
  decode [0xAD, 0x34, 0x12] = .ok (.ldaAbs 0x1234, []) ∧ decode [0xBD, 0xFF, 0x12] = .ok (.ldaAbx 0x12FF, []) ∧
  decode [0xB9, 0xFF, 0x12] = .ok (.ldaAby 0x12FF, []) ∧ decode [0x6C, 0xFF, 0x02] = .ok (.jmpInd 0x02FF, []) ∧
  decode [0xA1, 0x20] = .ok (.ldaIzx 0x20, []) ∧ decode [0xB1, 0x20] = .ok (.ldaIzy 0x20, []) ∧
  decode [0xF0, 0x05] = .ok (.beq 0x05, []) ∧ decode [0x0A] = .ok (.aslAcc, []) ∧ decode [0xEA] = .ok (.nop, []) ∧
  decode [0x00] = .ok (.brk, []) ∧ decode [0x02, 0x60] = .ok (.unknown 0x02, [0x60])

/-! ### The step engine -/

/-- R80, R82, R83: where the configured opcode table has a row for the byte at the program counter, the step runs the row
in the state past that byte; where it has none, and by default no byte has one, and the bytes fetched decode to `i`, the
step is `exec i` in the state past those bytes. Either is closed by the audit record. That the step fetches the operand
bytes before `exec`, and keeps the record in a field of its state, is the model's choice (log entries 6 and 7), and so is
that a table is given by rows (log entry 8). -/
def Obligations.StepRunsDecodedInstruction : Prop :=
  ∀ s : State,
    let f1 := fetch8 (beginStep s)
    let f2 := fetch8 f1.2
    let f3 := fetch8 f2.2
    (s.config = Config.default → s.config.row f1.1 = none) ∧
    (∀ d, s.config.row f1.1 = some d →
      d ∈ s.config.opcodes ∧ d.opcode = f1.1 ∧ step s = .next (endStep f1.1 d.mnemonic (runDefinition d f1.2))) ∧
    ∀ (i : Instr) (rest : List Byte), s.config.row f1.1 = none → decode [f1.1, f2.1, f3.1] = .ok (i, rest) →
      i.WellFormed ∧
      step s =
        match exec i (if i.length = 1 then f1.2 else if i.length = 2 then f2.2 else f3.2) with
        | .next t => .next (endStep f1.1 i.mnemonic t)
        | .fault f => .fault f
        | .refused r => .refused r

/-- R64, R84, R98, R99: what a row of the configured opcode table does, whatever its mnemonic, mode and costs. The mode is
resolved as in the default table, the operand bytes fetched by the resolver, but that IMM gives its byte's location
unread (R87). The behaviour is the one `exec` has for the forms of the same mnemonic on the resolved address, or without
an operand; a branch goes to the resolved address on its condition; INC and DEC of A are those of R139, R140 on A (R86).
The cost is that of R99. That every mode with an address serves every behaviour that uses one is the model's reading (log
entry 18). -/
def Obligations.ConfiguredRowRunsItsMnemonic : Prop :=
  ∀ (d : InstructionDef) (s : State),
    let r := resolveMode d.mode s
    let t := runDefinition d s
    (if d.mode = .imm then r = ⟨s.pc, false, { s with pc := s.pc + 1 }⟩
     else if d.mode.length = 1 then r = resolve (d.mode.assembled 0 0) s
     else if d.mode.length = 2 then r = resolve (d.mode.assembled (fetch8 s).1 0) (fetch8 s).2
     else r = resolve (d.mode.assembled (fetch8 s).1 (fetch8 (fetch8 s).2).1) (fetch8 (fetch8 s).2).2) ∧
    (∀ i : Instr, i.mnemonic = d.mnemonic →
      (i.operand = .imp ∨ i.operand = .unk ∨ (if d.mode = .acc then i.operand = .acc else i.operand = .abs r.addr)) →
      ∃ u, exec i r.state = .next u ∧ t = { u with cycles := t.cycles }) ∧
    (d.mnemonic ∈ [.bcc, .bcs, .beq, .bne, .bmi, .bpl, .bvc, .bvs] →
      (BranchTaken d.mnemonic r.state.p → t = { r.state with pc := r.addr, cycles := t.cycles }) ∧
      (¬ BranchTaken d.mnemonic r.state.p → t = { r.state with cycles := t.cycles })) ∧
    (d.mode = .acc → d.mnemonic = .inc ∨ d.mnemonic = .dec →
      t = { r.state with a := t.a, p := t.p, cycles := t.cycles } ∧
      t.a.toNat = (s.a.toNat + (if d.mnemonic = .inc then 1 else 255)) % 256 ∧ FlagsZN t.a t ∧
      KeepsFlagsBut [.z, .n] s t) ∧
    (BranchTaken d.mnemonic s.p → t.cycles = s.cycles + d.cost s.config.branchCrossExtra r.crossed true) ∧
    (¬ BranchTaken d.mnemonic s.p → t.cycles = s.cycles + d.cost s.config.branchCrossExtra r.crossed false) ∧
    d.cost s.config.branchCrossExtra r.crossed true =
      d.baseCycles + (if d.penalty = .pageCross ∧ r.crossed = true then 1 else 0) + (if d.penalty = .branch then 1 else 0) +
        (if d.penalty = .branch ∧ r.crossed = true then s.config.branchCrossExtra else 0) ∧
    d.cost s.config.branchCrossExtra r.crossed false =
      d.baseCycles + (if d.penalty = .pageCross ∧ r.crossed = true then 1 else 0)

/-- R63, R64, R80: the two ways a step takes agree: rows that repeat the definitions of the default table, for all bytes
or for some, change no step. So a configured row is run by the rules of the default table. -/
def Obligations.RowsOfTheDefaultTableChangeNothing : Prop :=
  ∀ (s t : State) (rows : List InstructionDef), (∀ d ∈ rows, d = defaultDefinition d.opcode) →
    step { s with config := { s.config with opcodes := [] } } = .next t →
    step { s with config := { s.config with opcodes := rows } } =
      .next { t with config := { s.config with opcodes := rows } }

/-- R82, R15, R107: where the three bytes at the program counter are no device registers, the fetch reads the
instruction they hold in the default table, one recorded read a byte in order, and leaves `PC` past it, modulo 65536, and
all else as the start of the step left it. That the operand bytes are fetched by the step is the model's choice (log entry
7). -/
def Obligations.FetchReadsBytesAtPc : Prop :=
  ∀ s : State, IsMemory s s.pc → IsMemory s (s.pc + 1) → IsMemory s (s.pc + 2) →
    let i := assemble (memPeek s s.pc) (memPeek s (s.pc + 1)) (memPeek s (s.pc + 2))
    let read (n : Nat) : MicroOp :=
      { kind := .read, addr := s.pc + BitVec.ofNat 16 n, value := memPeek s (s.pc + BitVec.ofNat 16 n), offset := n }
    let opcode := fetch8 (beginStep s)
    opcode.1 = memPeek s s.pc ∧
    fetchOperands opcode.1 opcode.2 =
      (i,
        { s with
          startCycle := s.cycles
          pc := s.pc + BitVec.ofNat 16 i.length
          log := (List.range i.length).map read
          k := i.length })

/-- R105: every step completes with a next state and its audit record, which the state carries (log entry 6). -/
def Obligations.EveryStepCompletes : Prop :=
  ∀ s : State, ∃ t au, step s = .next t ∧ t.audit = some au

/-- R99: every instruction completes, with its exact cycle cost in every state; what it does besides is stated of each
mnemonic. A branch pays its extra cycles only where it moves `PC` to its target. With either value R6 gives
`BRANCH_CROSS_EXTRA` the sum is between 2 and 7; by default that value is 1. -/
def Obligations.CycleCost : Prop :=
  ∀ (i : Instr) (s : State), ∃ t,
    exec i s = .next t ∧
    t.cycles = s.cycles + i.form.baseCycles
      + (if i.form.penalty = .pageCross ∧ (readOperand i.operand s).2.1 = true then 1 else 0)
      + (if i.form.penalty = .branch ∧
            ((i.mnemonic = .bcc ∧ getFlag s.p .c = false) ∨ (i.mnemonic = .bcs ∧ getFlag s.p .c = true) ∨
             (i.mnemonic = .beq ∧ getFlag s.p .z = true) ∨ (i.mnemonic = .bne ∧ getFlag s.p .z = false) ∨
             (i.mnemonic = .bmi ∧ getFlag s.p .n = true) ∨ (i.mnemonic = .bpl ∧ getFlag s.p .n = false) ∨
             (i.mnemonic = .bvc ∧ getFlag s.p .v = false) ∨ (i.mnemonic = .bvs ∧ getFlag s.p .v = true))
         then 1 + (if (resolve i.operand s).crossed = true then s.config.branchCrossExtra else 0) else 0) ∧
    (s.config.branchCrossExtra ≤ 1 → s.cycles + 2 ≤ t.cycles ∧ t.cycles ≤ s.cycles + 7) ∧
    (s.config = Config.default → s.config.branchCrossExtra = 1)

/-- R27, R99: a step costs between 2 and 7 cycles, so `cycles` rises at every step, in every configuration that launch
accepts (log entry 13), the default among them. -/
def Obligations.StepCostsTwoToSeven : Prop :=
  ∀ s t : State, s.config.wellFormed = true → step s = .next t → s.cycles + 2 ≤ t.cycles ∧ t.cycles ≤ s.cycles + 7

/-- R100, R21, R22: the audit record of a step, field by field, and `seq` after it. Where the record is kept is the
model's choice (log entry 6). -/
def Obligations.AuditRecordOfStep : Prop :=
  ∀ s t : State, step s = .next t →
    t.seq = s.seq + 1 ∧ t.startCycle = s.cycles ∧
    t.audit = some
      { seq := s.seq
        opcode := memPeek s s.pc
        mnemonic := s.config.text (definitionAtPc s).mnemonic
        startCycle := s.cycles
        microOps := t.log
        snapshot := { a := t.a, x := t.x, y := t.y, p := t.p, s := t.sp, pc := t.pc, cycles := t.cycles } }

/-- R45: the micro-ops of a step are numbered 0, 1, 2, … without gaps, `k` counts them, the first is the opcode fetch at
the old `PC`, and, where the byte there is one of the default opcode table or the configuration is one launch accepts,
there are at most as many as the step costs cycles. Which configurations launch accepts is the model's choice (log entry
13). -/
def Obligations.MicroOpsNumberedFromOpcodeFetch : Prop :=
  ∀ s t : State, step s = .next t →
    t.log.map MicroOp.offset = List.range t.log.length ∧ t.k = t.log.length ∧
    t.log.head? = some { kind := .read, addr := s.pc, value := memPeek s s.pc, offset := 0 } ∧
    (s.config.row (memPeek s s.pc) = none ∨ s.config.wellFormed = true → t.log.length ≤ t.cycles - s.cycles)

/-- R106: how many micro-ops a step makes: the opcode fetch, the reads of its mode's resolver, the transactions of its
mnemonic's behaviour, in numbers; and that the count never exceeds the cycle cost, in every configuration that launch
accepts (log entry 13). -/
def Obligations.MicroOpCountOfStep : Prop :=
  ∀ s t : State, step s = .next t →
    let d := definitionAtPc s
    t.log.length = 1 + d.mode.reads + d.mnemonic.transactions d.mode ∧
    (s.config.wellFormed = true → t.log.length ≤ t.cycles - s.cycles)

/-- R18, R23, R24, R27, R34, R42, R45: every step keeps the invariant. -/
def Obligations.StepKeepsInv : Prop :=
  ∀ s t : State, Inv s → step s = .next t → Inv t

/-- The invariant holds in `State.reset`, whose ROM, RAM, start cycle and absent record are the model's choice (log
entries 1, 2, 5 and 6). -/
def Obligations.InvAtReset : Prop := Inv State.reset

/-- R223, R225, R220: the invariant holds in every launch state, and the host's `Reset` keeps it. Which launches
construction accepts beyond R42 is the model's choice (log entry 13). -/
def Obligations.LaunchAndResetGiveInv : Prop :=
  (∀ (l : Launch) (s : State), launch l = some s → Inv s) ∧ ∀ s : State, Inv s → Inv s.applyReset

/-- R10, R40, R63: no step changes the configuration, the ROM image, its length, the register window, its device's hooks
or the mapper's functions. -/
def Obligations.StepKeepsLaunchParameters : Prop :=
  ∀ s t : State, step s = .next t →
    t.config = s.config ∧ t.rom = s.rom ∧ t.romLength = s.romLength ∧ t.regWindow = s.regWindow ∧
    t.device = s.device ∧ (s.mapper = .fixedRom → t.mapper = .fixedRom) ∧
    ∀ m ms, s.mapper = .custom m ms → ∃ ms', t.mapper = .custom m ms'

/-- R209, R210, R22, R236: no instruction's effect depends on the counters or on what the last step recorded: a step
from the same state with other counters, log and record gives the same state but for them, and costs the same. The
record's field is the model's own (log entry 6). -/
def Obligations.CountersAreInvisible : Prop :=
  ∀ (s t : State) (c q d k : Nat) (l : List MicroOp) (au : Option InstructionAudit), step s = .next t →
    ∃ au', step { s with cycles := c, seq := q, startCycle := d, log := l, k := k, audit := au } =
      .next { t with cycles := c + (t.cycles - s.cycles), seq := q + 1, startCycle := c, audit := au' }

/-- R19, R203, R238: D and I are stored and nothing else: whichever value one of them holds, an instruction that does
not push the status byte gives the same state, all flags but that one included. -/
def Obligations.DecimalAndInterruptFlagsAreInert : Prop :=
  ∀ (i : Instr) (s t : State) (f : Flag) (b : Bool), (f = .d ∨ f = .i) → i.mnemonic ≠ .php → i.mnemonic ≠ .brk →
    exec i s = .next t →
    ∃ p', exec i { s with p := setFlag s.p f b } = .next { t with p := p' } ∧
      ∀ g, g ≠ f → getFlag p' g = getFlag t.p g

/-! ### Memory, mapper, recorder -/

/-- R32: below `0x2000` the cell accessed is `RAM[addr & 0x07FF]`, so a read at `addr ^ 0x0800` gives the same byte, and
gives the byte a write at `addr` left. -/
def Obligations.RamIsMirrored : Prop :=
  ∀ (s : State) (addr : Word), addr.toNat < 0x2000 →
    memPeek s addr = s.ram.read (addr.toNat % 2048) ∧ memPeek s (addr ^^^ 0x0800) = memPeek s addr ∧
    ∀ v : Byte,
      (memWrite s addr v).ram = s.ram.write (addr.toNat % 2048) v ∧
      (s.ram.wf = true → memPeek (memWrite s addr v) (addr ^^^ 0x0800) = v)

/-- R32, R37, R53: after a write below `0x2000` every address below `0x2000` with the same low 11 bits reads the byte
written, every other address that is no device register reads as before. -/
def Obligations.RamWriteIsReadBack : Prop :=
  ∀ (s : State) (addr b : Word) (v : Byte), s.ram.wf = true → addr.toNat < 0x2000 → IsMemory s b →
    memPeek (memWrite s addr v) b =
      if b.toNat < 0x2000 ∧ b.toNat % 2048 = addr.toNat % 2048 then v else memPeek s b

/-- R35, R38, R43, R44: an unmapped address reads 0x00, and reads and writes of it change nothing but the record. -/
def Obligations.UnmappedAccess : Prop :=
  ∀ (s : State) (addr : Word) (v : Byte), 0x2000 ≤ addr.toNat → addr.toNat < 0x8000 → addr ∉ s.regWindow →
    memRead s addr =
      (0x00, { s with log := s.log ++ [{ kind := .read, addr := addr, value := 0x00, offset := s.k }], k := s.k + 1 }) ∧
    memWrite s addr v =
      { s with log := s.log ++ [{ kind := .write, addr := addr, value := v, offset := s.k }], k := s.k + 1 }

/-- R33, R37, R39, R40, R41: the cartridge window. The fixed-ROM mapper answers the byte at the offset into the buffer,
with a 16 KB image seen twice, 0x00 beyond the buffer, and a write is ignored but recorded. Of any other mapper a read
gives the byte of its `cpuRead` and keeps its state, and a write leaves the state its `cpuWrite` gives, each with its
micro-op and nothing else. Its functions are those given at launch: the first row that matches gives the value, and
where none does it is free (log entry 4). -/
def Obligations.FixedRomWindow : Prop :=
  ∀ (s : State) (addr : Word) (v : Byte), 0x8000 ≤ addr.toNat → addr ∉ s.regWindow →
    (s.mapper = .fixedRom →
      memPeek s addr =
        (let offset := if s.romLength = 16384 then (addr.toNat - 0x8000) % 16384 else addr.toNat - 0x8000
         if offset < s.romLength then s.rom.read offset else 0x00) ∧
      memWrite s addr v =
        { s with log := s.log ++ [{ kind := .write, addr := addr, value := v, offset := s.k }], k := s.k + 1 }) ∧
    ∀ m ms, s.mapper = .custom m ms →
      memRead s addr =
        (s.mapperRead addr,
          { s with
            log := s.log ++ [{ kind := .read, addr := addr, value := s.mapperRead addr, offset := s.k }]
            k := s.k + 1 }) ∧
      GivenByRows (fun r : MapperReadRow => r.ms = ms ∧ r.addr = addr) MapperReadRow.value m.reads
        (Config.mapperRead m.id ms addr) (s.mapperRead addr) ∧
      ∃ ms',
        memWrite s addr v =
          { s with
            mapper := .custom m ms'
            log := s.log ++ [{ kind := .write, addr := addr, value := v, offset := s.k }]
            k := s.k + 1 } ∧
        GivenByRows (fun r : MapperWriteRow => r.ms = ms ∧ r.addr = addr ∧ r.value = v) MapperWriteRow.next m.writes
          (Config.mapperWrite m.id ms addr v) ms'

/-- R34, R37: an access in the register window is the device's: its hooks give the byte and its next state, nothing
else of the state changes but the record. The hooks are those of the device given at launch, a function of its state:
the first row that matches gives the value, and where none does it is free (log entries 3 and 9). -/
def Obligations.RegisterWindowAccess : Prop :=
  ∀ (s : State) (addr : Word) (v : Byte), 0x2000 ≤ addr.toNat → addr ∈ s.regWindow →
    memRead s addr =
      ((s.devRead addr).1,
        { s with
          dev := (s.devRead addr).2
          log := s.log ++ [{ kind := .read, addr := addr, value := (s.devRead addr).1, offset := s.k }]
          k := s.k + 1 }) ∧
    memWrite s addr v =
      { s with
        dev := s.devWrite addr v
        log := s.log ++ [{ kind := .write, addr := addr, value := v, offset := s.k }]
        k := s.k + 1 } ∧
    GivenByRows (fun r : DevReadRow => r.dev = s.dev ∧ r.addr = addr) (fun r => (r.value, r.next)) s.device.reads
      (Config.devRead s.device.id s.dev addr) (s.devRead addr) ∧
    GivenByRows (fun r : DevWriteRow => r.dev = s.dev ∧ r.addr = addr ∧ r.value = v) DevWriteRow.next s.device.writes
      (Config.devWrite s.device.id s.dev addr v) (s.devWrite addr v)

/-- R31, R36, R43: an audited read returns what a peek in the same state returns, appends exactly its micro-op, and
changes nothing else, but the device where the address is in the register window. -/
def Obligations.ReadRecordsAndKeeps : Prop :=
  ∀ (s : State) (addr : Word), ∃ dev',
    memRead s addr =
      (memPeek s addr,
        { s with
          dev := dev'
          log := s.log ++ [{ kind := .read, addr := addr, value := memPeek s addr, offset := s.k }]
          k := s.k + 1 }) ∧
    (IsMemory s addr → dev' = s.dev)

/-- R102, R103, R14: a pull after a push gives the pushed byte and the old `S`; both go to page one, at
`0x0100 | S`, and `S` wraps. -/
def Obligations.PullAfterPush : Prop :=
  ∀ (s : State) (v : Byte), s.ram.wf = true →
    (push s v).sp.toNat = (s.sp.toNat + 255) % 256 ∧ memPeek (push s v) (slotAbove s.sp 0) = v ∧
    (pull (push s v)).1 = v ∧ (pull (push s v)).2.sp = s.sp ∧ (pull (push s v)).2.ram = (push s v).ram ∧
    (pull s).1 = memPeek s (slotAbove s.sp 1) ∧ (pull s).2.sp.toNat = (s.sp.toNat + 1) % 256

/-! ### Addressing modes -/

/-- R88, R89, R90, R233: zero-page addresses stay in page zero, are never crossed, and take no read beyond that of the
operand byte, which the step has made (log entry 7). -/
def Obligations.ZeroPageAddresses : Prop :=
  ∀ (b : Byte) (s : State),
    ((resolve (.zp b) s).addr.toNat = b.toNat ∧ (resolve (.zp b) s).crossed = false ∧ (resolve (.zp b) s).state = s) ∧
    ((resolve (.zpx b) s).addr.toNat = (b.toNat + s.x.toNat) % 256 ∧ (resolve (.zpx b) s).crossed = false ∧
      (resolve (.zpx b) s).state = s) ∧
    ((resolve (.zpy b) s).addr.toNat = (b.toNat + s.y.toNat) % 256 ∧ (resolve (.zpy b) s).crossed = false ∧
      (resolve (.zpy b) s).state = s)

/-- R91, R92, R93: absolute addresses; an index is added modulo 65536, and the cross bit says whether the page changed.
That the resolver reads nothing more is the model's choice: the step has fetched both operand bytes (log entry 7). -/
def Obligations.AbsoluteAddresses : Prop :=
  ∀ (a : Word) (s : State),
    (resolve (.abs a) s).addr = a ∧ (resolve (.abs a) s).crossed = false ∧
    (resolve (.abx a) s).addr.toNat = (a.toNat + s.x.toNat) % 65536 ∧
    ((resolve (.abx a) s).crossed = true ↔ (a.toNat + s.x.toNat) % 65536 / 256 ≠ a.toNat / 256) ∧
    (resolve (.aby a) s).addr.toNat = (a.toNat + s.y.toNat) % 65536 ∧
    ((resolve (.aby a) s).crossed = true ↔ (a.toNat + s.y.toNat) % 65536 / 256 ≠ a.toNat / 256) ∧
    (resolve (.abs a) s).state = s ∧ (resolve (.abx a) s).state = s ∧ (resolve (.aby a) s).state = s

/-- R94, R232: the indirect jump reads the low byte at its pointer and the high byte at the next address of the same page.
That the resolver makes these two reads only is the model's choice: the step has fetched both operand bytes (log entry
7). -/
def Obligations.IndirectPointerWrapsInPage : Prop :=
  ∀ (ptr next : Word) (s : State), next.toNat = ptr.toNat / 256 * 256 + (ptr.toNat + 1) % 256 →
    (resolve (.ind ptr) s).addr.toNat = (memPeek s ptr).toNat + 256 * (memPeek (memRead s ptr).2 next).toNat ∧
    (resolve (.ind ptr) s).crossed = false ∧
    (resolve (.ind ptr) s).state = (memRead (memRead s ptr).2 next).2

/-- R95, R96, R233: the zero-page pointer modes: both pointer bytes come from page zero, two recorded reads; IZX adds
`X` before, IZY adds `Y` after, modulo 65536, with its cross bit. That the resolver makes these two reads only is the
model's choice: the step has fetched the operand byte (log entry 7). -/
def Obligations.ZeroPagePointers : Prop :=
  ∀ (b : Byte) (s : State),
    let at_ (n : Nat) : Word := BitVec.ofNat 16 (n % 256)
    let word (n : Nat) : Nat := (memPeek s (at_ n)).toNat + 256 * (memPeek s (at_ (n + 1))).toNat
    let reads (n : Nat) : State :=
      { s with
        log := s.log ++
          [{ kind := .read, addr := at_ n, value := memPeek s (at_ n), offset := s.k },
           { kind := .read, addr := at_ (n + 1), value := memPeek s (at_ (n + 1)), offset := s.k + 1 }]
        k := s.k + 2 }
    ((resolve (.izx b) s).addr.toNat = word (b.toNat + s.x.toNat) ∧ (resolve (.izx b) s).crossed = false ∧
      (resolve (.izx b) s).state = reads (b.toNat + s.x.toNat)) ∧
    ((resolve (.izy b) s).addr.toNat = (word b.toNat + s.y.toNat) % 65536 ∧
      ((resolve (.izy b) s).crossed = true ↔ (word b.toNat + s.y.toNat) % 65536 / 256 ≠ word b.toNat / 256) ∧
      (resolve (.izy b) s).state = reads b.toNat)

/-- R97: the branch target is the address after the operand byte plus the signed displacement, modulo 65536. That the
resolver reads nothing is the model's choice: the step has fetched the displacement (log entry 7). -/
def Obligations.BranchTargets : Prop :=
  ∀ (d : Byte) (s : State),
    ((resolve (.rel d) s).addr.toNat : Int) = ((s.pc.toNat : Int) + d.toInt) % 65536 ∧
    ((resolve (.rel d) s).crossed = true ↔ (resolve (.rel d) s).addr.toNat / 256 ≠ s.pc.toNat / 256) ∧
    (resolve (.rel d) s).state = s

/-- R98, R87: the operand byte: of an immediate the byte itself, which the step has read (log entry 7); in every other
mode with an address the byte a read there gives after the pointer reads, which is what a peek gave before the
instruction. -/
def Obligations.OperandByte : Prop :=
  ∀ (o : Operand) (s : State),
    (∀ v, o = .imm v → readOperand o s = (v, false, s)) ∧
    (o.mode ∈ [.zp, .zpx, .zpy, .abs, .abx, .aby, .izx, .izy] →
      (readOperand o s).1 = memPeek s (resolve o s).addr ∧
      (readOperand o s).2.1 = (resolve o s).crossed ∧
      (readOperand o s).2.2 = (memRead (resolve o s).state (resolve o s).addr).2)

/-! ### Reset and launch -/

/-- R220: what `Reset` writes, `S` the configured value, by default 0xFD, and that it keeps everything else. -/
def Obligations.ResetWritesAndKeeps : Prop :=
  ∀ s : State,
    s.applyReset =
      { s with
        a := 0x00
        x := 0x00
        y := 0x00
        p := 0x34
        sp := s.config.resetS
        pc := BitVec.ofNat 16 ((memPeek s 0xFFFC).toNat + 256 * (memPeek s 0xFFFD).toNat)
        cycles := 7
        seq := 0 } ∧
    (s.config = Config.default → s.applyReset.sp = 0xFD)

/-- R40, R42, R223, R225: a launch succeeds exactly on 2048 bytes of RAM, a window in `0x2000` to `0x7FFF`, a
configuration the model allows and, with the fixed-ROM mapper, a ROM buffer of 16384 or 32768 bytes. The parameters are
then those given, the ROM buffer byte by byte, RAM holds `RAM_INIT`, the recorder is empty, and `PC` is the reset vector,
with the fixed-ROM mapper at ROM offsets length - 4 and length - 3. That a launch refuses a `RAM_INIT` of another length,
a window outside its range or another configuration is the model's choice (log entry 13). -/
def Obligations.LaunchFromRom : Prop :=
  ∀ l : Launch,
    ((∃ s, launch l = some s) ↔
      (l.mapper = .fixedRom → l.rom.length = 16384 ∨ l.rom.length = 32768) ∧ l.ramInit.length = 2048 ∧
        l.config.wellFormed = true ∧ ∀ w ∈ l.regWindow, 0x2000 ≤ w.toNat ∧ w.toNat ≤ 0x7FFF) ∧
    ∀ s, launch l = some s →
      s.pc.toNat = (memPeek s 0xFFFC).toNat + 256 * (memPeek s 0xFFFD).toNat ∧
      (l.mapper = .fixedRom →
        s.pc.toNat = (l.rom.getD (l.rom.length - 4) 0).toNat + 256 * (l.rom.getD (l.rom.length - 3) 0).toNat) ∧
      s.a = 0x00 ∧ s.x = 0x00 ∧ s.y = 0x00 ∧ s.p = 0x34 ∧ s.sp = l.config.resetS ∧ s.cycles = 7 ∧
      s.seq = 0 ∧ s.config = l.config ∧ s.regWindow = l.regWindow ∧ s.device = l.device ∧ s.dev = l.dev ∧
      s.mapper = l.mapper ∧ s.romLength = l.rom.length ∧ (∀ n, s.rom.read n = l.rom.getD n 0) ∧ s.log = [] ∧ s.k = 0 ∧
      ∀ addr : Word, addr.toNat < 0x2000 → memPeek s addr = l.ramInit.getD (addr.toNat % 2048) 0

/-! ### Loads, stores, transfers -/

/-- R110, R111, R112: a load puts the operand byte in its register and sets Z and N from it. -/
def Obligations.Loads : Prop :=
  ∀ (i : Instr) (s : State),
    let m := (readOperand i.operand s).1
    let rest (t : State) : Prop :=
      exec i s = .next t ∧ FlagsZN m t ∧ KeepsFlagsBut [.z, .n] s t ∧ t.sp = s.sp ∧ t.pc = s.pc ∧
      KeepsStepFields s t ∧ KeepsMemory s t ∧ SameBus (readOperand i.operand s).2.2 t ∧
      t.cycles = s.cycles + costOf i (readOperand i.operand s).2.1
    (i.mnemonic = .lda → ∃ t, rest t ∧ t.a = m ∧ t.x = s.x ∧ t.y = s.y) ∧
    (i.mnemonic = .ldx → ∃ t, rest t ∧ t.a = s.a ∧ t.x = m ∧ t.y = s.y) ∧
    (i.mnemonic = .ldy → ∃ t, rest t ∧ t.a = s.a ∧ t.x = s.x ∧ t.y = m)

/-- R113, R114, R115: a store writes its register at the instruction's address, one recorded write and no read of it,
and changes no register or flag; its cost does not depend on a page cross. -/
def Obligations.Stores : Prop :=
  ∀ (i : Instr) (s : State),
    let r := resolve i.operand s
    let effect (v : Byte) : Prop :=
      ∃ t, exec i s = .next t ∧ SameBus (memWrite r.state r.addr v) t ∧ t.a = s.a ∧ t.x = s.x ∧ t.y = s.y ∧
        t.sp = s.sp ∧ t.p = s.p ∧ t.pc = s.pc ∧ KeepsStepFields s t ∧ t.cycles = s.cycles + i.form.baseCycles ∧
        (s.ram.wf = true → r.addr.toNat < 0x2000 → memPeek t r.addr = v)
    (i.mnemonic = .sta → effect s.a) ∧ (i.mnemonic = .stx → effect s.x) ∧ (i.mnemonic = .sty → effect s.y)

/-- The bytes an instruction that stores through its operand leaves alone: every address but the one stored to, and its
mirrors, reads as before. -/
def Obligations.StoredByteFrame : Prop :=
  ∀ (i : Instr) (s t : State), s.ram.wf = true → i.operand.mode ≠ .acc →
    i.mnemonic ∈ [.sta, .stx, .sty, .inc, .dec, .asl, .lsr, .rol, .ror] →
    exec i s = .next t → KeepsMemoryBut [(resolve i.operand s).addr] s t

/-- R116 to R121: the transfers copy one register to another; all but TXS set Z and N; nothing else changes. -/
def Obligations.Transfers : Prop :=
  ∀ s : State,
    let copied (op : Byte) (i : Instr) (v : Byte) (t : State) : Prop :=
      i.opcode = op ∧ exec i s = .next t ∧ FlagsZN v t ∧ KeepsFlagsBut [.z, .n] s t ∧ t.pc = s.pc ∧ KeepsStepFields s t ∧
      KeepsMemory s t ∧ SameBus s t ∧ t.cycles = s.cycles + 2
    (∃ t, copied 0xAA .tax s.a t ∧ t.x = s.a ∧ t.a = s.a ∧ t.y = s.y ∧ t.sp = s.sp) ∧
    (∃ t, copied 0xA8 .tay s.a t ∧ t.y = s.a ∧ t.a = s.a ∧ t.x = s.x ∧ t.sp = s.sp) ∧
    (∃ t, copied 0x8A .txa s.x t ∧ t.a = s.x ∧ t.x = s.x ∧ t.y = s.y ∧ t.sp = s.sp) ∧
    (∃ t, copied 0x98 .tya s.y t ∧ t.a = s.y ∧ t.x = s.x ∧ t.y = s.y ∧ t.sp = s.sp) ∧
    (∃ t, copied 0xBA .tsx s.sp t ∧ t.x = s.sp ∧ t.a = s.a ∧ t.y = s.y ∧ t.sp = s.sp) ∧
    Instr.txs.opcode = 0x9A ∧
    exec .txs s = .next { s with sp := s.x, cycles := s.cycles + 2 }

/-! ### Arithmetic and logic -/

/-- R130, R128: ADC in numbers: the sum of A, the operand and the carry modulo 256; C when it exceeds 255; V exactly when
both inputs have one sign and the result the other. -/
def Obligations.AddWithCarry : Prop :=
  ∀ (i : Instr) (s : State), i.mnemonic = .adc →
    let m := (readOperand i.operand s).1
    let sum := s.a.toNat + m.toNat + (if getFlag s.p .c = true then 1 else 0)
    ∃ t, exec i s = .next t ∧ t.a.toNat = sum % 256 ∧ getFlag t.p .c = decide (255 < sum) ∧
      getFlag t.p .v = ((~~~ (s.a ^^^ m)) &&& (s.a ^^^ BitVec.ofNat 8 sum) &&& 0x80 != 0) ∧
      (getFlag t.p .v = true ↔ s.a.msb = m.msb ∧ t.a.msb ≠ s.a.msb) ∧ FlagsZN t.a t ∧
      KeepsFlagsBut [.c, .v, .z, .n] s t ∧ t.x = s.x ∧ t.y = s.y ∧ t.sp = s.sp ∧ t.pc = s.pc ∧
      KeepsStepFields s t ∧ KeepsMemory s t ∧ SameBus (readOperand i.operand s).2.2 t ∧
      t.cycles = s.cycles + costOf i (readOperand i.operand s).2.1

/-- R131: SBC in numbers: A minus the operand minus the borrow modulo 256; C means no borrow; V exactly when the exact
signed difference does not fit 8 bits. -/
def Obligations.SubtractWithBorrow : Prop :=
  ∀ (i : Instr) (s : State), i.mnemonic = .sbc →
    let m := (readOperand i.operand s).1
    let borrow : Int := if getFlag s.p .c = true then 0 else 1
    let exact : Int := s.a.toInt - m.toInt - borrow
    ∃ t, exec i s = .next t ∧ (t.a.toNat : Int) = ((s.a.toNat : Int) - m.toNat - borrow) % 256 ∧
      getFlag t.p .c = decide ((m.toNat : Int) + borrow ≤ s.a.toNat) ∧
      getFlag t.p .v = decide (exact < -128 ∨ 127 < exact) ∧ FlagsZN t.a t ∧
      KeepsFlagsBut [.c, .v, .z, .n] s t ∧ t.x = s.x ∧ t.y = s.y ∧ t.sp = s.sp ∧ t.pc = s.pc ∧
      KeepsStepFields s t ∧ KeepsMemory s t ∧ SameBus (readOperand i.operand s).2.2 t ∧
      t.cycles = s.cycles + costOf i (readOperand i.operand s).2.1

/-- R132, R133, R134: AND, ORA, EOR combine A with the operand byte and set Z and N. -/
def Obligations.LogicOperations : Prop :=
  ∀ (i : Instr) (s : State),
    let m := (readOperand i.operand s).1
    let effect (v : Byte) : Prop :=
      ∃ t, exec i s = .next t ∧ t.a = v ∧ FlagsZN v t ∧ KeepsFlagsBut [.z, .n] s t ∧ t.x = s.x ∧ t.y = s.y ∧
        t.sp = s.sp ∧ t.pc = s.pc ∧ KeepsStepFields s t ∧ KeepsMemory s t ∧
        SameBus (readOperand i.operand s).2.2 t ∧ t.cycles = s.cycles + costOf i (readOperand i.operand s).2.1
    (i.mnemonic = .and → effect (s.a &&& m)) ∧ (i.mnemonic = .ora → effect (s.a ||| m)) ∧
    (i.mnemonic = .eor → effect (s.a ^^^ m))

/-- R129, R135, R136, R137: a compare sets C when the register is not below the operand, Z on equality, N from bit 7 of
the difference, and changes no register and no other flag. -/
def Obligations.Compares : Prop :=
  ∀ (i : Instr) (s : State),
    let m := (readOperand i.operand s).1
    let effect (r : Byte) : Prop :=
      ∃ t, exec i s = .next t ∧ getFlag t.p .c = decide (m.toNat ≤ r.toNat) ∧ getFlag t.p .z = decide (r = m) ∧
        getFlag t.p .n = decide (128 ≤ (r.toNat + 256 - m.toNat) % 256) ∧ KeepsFlagsBut [.c, .z, .n] s t ∧
        t.a = s.a ∧ t.x = s.x ∧ t.y = s.y ∧ t.sp = s.sp ∧ t.pc = s.pc ∧ KeepsStepFields s t ∧ KeepsMemory s t ∧
        SameBus (readOperand i.operand s).2.2 t ∧ t.cycles = s.cycles + costOf i (readOperand i.operand s).2.1
    (i.mnemonic = .cmp → effect s.a) ∧ (i.mnemonic = .cpx → effect s.x) ∧ (i.mnemonic = .cpy → effect s.y)

/-- R138: BIT: Z from the AND of A and the operand byte, V and N from bits 6 and 7 of the operand byte. -/
def Obligations.BitTest : Prop :=
  ∀ (i : Instr) (s : State), i.mnemonic = .bit →
    let m := (readOperand i.operand s).1
    ∃ t, exec i s = .next t ∧ getFlag t.p .z = decide (s.a &&& m = 0) ∧
      getFlag t.p .v = decide (m.toNat / 64 % 2 = 1) ∧ getFlag t.p .n = decide (128 ≤ m.toNat) ∧
      KeepsFlagsBut [.z, .v, .n] s t ∧ t.a = s.a ∧ t.x = s.x ∧ t.y = s.y ∧ t.sp = s.sp ∧ t.pc = s.pc ∧
      KeepsStepFields s t ∧ KeepsMemory s t ∧ SameBus (readOperand i.operand s).2.2 t ∧
      t.cycles = s.cycles + costOf i (readOperand i.operand s).2.1

/-- R139, R140: INC and DEC read their byte, write it plus or minus one modulo 256 to the same address, and set Z and N
from the result, whatever the address is; no register and no other flag changes. -/
def Obligations.MemoryIncrementDecrement : Prop :=
  ∀ (i : Instr) (s : State),
    let m := (readOperand i.operand s).1
    let addr := (resolve i.operand s).addr
    let effect (n : Nat) : Prop :=
      ∃ t, exec i s = .next t ∧ SameBus (memWrite (readOperand i.operand s).2.2 addr (BitVec.ofNat 8 n)) t ∧
        FlagsZN (BitVec.ofNat 8 n) t ∧ KeepsFlagsBut [.z, .n] s t ∧ t.a = s.a ∧ t.x = s.x ∧ t.y = s.y ∧
        t.sp = s.sp ∧ t.pc = s.pc ∧ KeepsStepFields s t ∧ t.cycles = s.cycles + i.form.baseCycles ∧
        (s.ram.wf = true → addr.toNat < 0x2000 → (memPeek t addr).toNat = n % 256)
    (i.mnemonic = .inc → effect (m.toNat + 1)) ∧ (i.mnemonic = .dec → effect (m.toNat + 255))

/-- R141 to R144: INX, INY, DEX, DEY count their register modulo 256 and set Z and N; nothing else changes. -/
def Obligations.RegisterIncrementDecrement : Prop :=
  ∀ s : State,
    let counted (op : Byte) (i : Instr) (v : Byte) (n : Nat) (t : State) : Prop :=
      i.opcode = op ∧ exec i s = .next t ∧ v.toNat = n % 256 ∧ FlagsZN v t ∧ KeepsFlagsBut [.z, .n] s t ∧
      t.a = s.a ∧ t.sp = s.sp ∧ t.pc = s.pc ∧ KeepsStepFields s t ∧ KeepsMemory s t ∧ SameBus s t ∧ t.cycles = s.cycles + 2
    (∃ t, counted 0xE8 .inx t.x (s.x.toNat + 1) t ∧ t.y = s.y) ∧
    (∃ t, counted 0xC8 .iny t.y (s.y.toNat + 1) t ∧ t.x = s.x) ∧
    (∃ t, counted 0xCA .dex t.x (s.x.toNat + 255) t ∧ t.y = s.y) ∧
    (∃ t, counted 0x88 .dey t.y (s.y.toNat + 255) t ∧ t.x = s.x)

/-! ### Shifts and rotates -/

/-- R150 to R153, the accumulator forms in numbers: A shifted, the bit shifted out in C, Z and N from the result, no
bus transaction. -/
def Obligations.AccumulatorShifts : Prop :=
  ∀ s : State,
    let v := s.a.toNat
    let c := if getFlag s.p .c = true then 1 else 0
    let effect (i : Instr) (r : Nat) (out : Bool) : Prop :=
      ∃ t, exec i s = .next t ∧ t.a.toNat = r ∧ getFlag t.p .c = out ∧ FlagsZN t.a t ∧
        KeepsFlagsBut [.c, .z, .n] s t ∧ t.x = s.x ∧ t.y = s.y ∧ t.sp = s.sp ∧ t.pc = s.pc ∧ KeepsStepFields s t ∧
        KeepsMemory s t ∧ SameBus s t ∧ t.cycles = s.cycles + 2
    effect .aslAcc (2 * v % 256) (decide (128 ≤ v)) ∧ effect .lsrAcc (v / 2) (decide (v % 2 = 1)) ∧
    effect .rolAcc ((2 * v + c) % 256) (decide (128 ≤ v)) ∧ effect .rorAcc (v / 2 + 128 * c) (decide (v % 2 = 1))

/-- R150 to R153, the memory forms: one read, one write of the shifted byte to the same address, C, Z and N as in the
accumulator forms, whatever the address is; no register changes. -/
def Obligations.MemoryShifts : Prop :=
  ∀ (i : Instr) (s : State), i.operand.mode ≠ .acc →
    let v := (readOperand i.operand s).1.toNat
    let c := if getFlag s.p .c = true then 1 else 0
    let addr := (resolve i.operand s).addr
    let effect (r : Nat) (out : Bool) : Prop :=
      ∃ t, exec i s = .next t ∧ SameBus (memWrite (readOperand i.operand s).2.2 addr (BitVec.ofNat 8 r)) t ∧
        getFlag t.p .c = out ∧ FlagsZN (BitVec.ofNat 8 r) t ∧ KeepsFlagsBut [.c, .z, .n] s t ∧ t.a = s.a ∧
        t.x = s.x ∧ t.y = s.y ∧ t.sp = s.sp ∧ t.pc = s.pc ∧ KeepsStepFields s t ∧
        t.cycles = s.cycles + i.form.baseCycles ∧
        (s.ram.wf = true → addr.toNat < 0x2000 → (memPeek t addr).toNat = r % 256)
    (i.mnemonic = .asl → effect (2 * v) (decide (128 ≤ v))) ∧ (i.mnemonic = .lsr → effect (v / 2) (decide (v % 2 = 1))) ∧
    (i.mnemonic = .rol → effect (2 * v + c) (decide (128 ≤ v))) ∧
    (i.mnemonic = .ror → effect (v / 2 + 128 * c) (decide (v % 2 = 1)))

/-! ### Control flow -/

/-- R160: JMP loads `PC` with its address, ABS or IND, and changes nothing else. -/
def Obligations.Jumps : Prop :=
  ∀ (i : Instr) (s : State), i.mnemonic = .jmp →
    ∃ t, exec i s = .next t ∧ t.pc = (resolve i.operand s).addr ∧ t.p = s.p ∧ t.a = s.a ∧ t.x = s.x ∧ t.y = s.y ∧
      t.sp = s.sp ∧ KeepsStepFields s t ∧ KeepsMemory s t ∧ SameBus (resolve i.operand s).state t ∧
      t.cycles = s.cycles + i.form.baseCycles

/-- R161: JSR pushes the address of its own last byte, high byte first, and jumps; `S` drops by 2 modulo 256. -/
def Obligations.JumpToSubroutine : Prop :=
  ∀ (a : Word) (s : State), s.ram.wf = true →
    let ret := (s.pc.toNat + 65535) % 65536
    (Instr.jsr a).opcode = 0x20 ∧ ∃ t, exec (.jsr a) s = .next t ∧ t.pc = a ∧ t.sp.toNat = (s.sp.toNat + 254) % 256 ∧
      (memPeek t (slotBelow s.sp 0)).toNat = ret / 256 ∧ (memPeek t (slotBelow s.sp 1)).toNat = ret % 256 ∧
      KeepsMemoryBut [slotBelow s.sp 0, slotBelow s.sp 1] s t ∧
      t.log = s.log ++
        [{ kind := .write, addr := slotBelow s.sp 0, value := BitVec.ofNat 8 (ret / 256), offset := s.k },
         { kind := .write, addr := slotBelow s.sp 1, value := BitVec.ofNat 8 ret, offset := s.k + 1 }] ∧
      t.k = s.k + 2 ∧ t.dev = s.dev ∧ t.mapper = s.mapper ∧ t.p = s.p ∧ t.a = s.a ∧ t.x = s.x ∧ t.y = s.y ∧
      KeepsStepFields s t ∧ t.cycles = s.cycles + 6

/-- R162: RTS pulls low then high and continues one past the address; `S` rises by 2 modulo 256. -/
def Obligations.ReturnFromSubroutine : Prop :=
  ∀ s : State,
    let lo := memPeek s (slotAbove s.sp 1)
    let hi := memPeek s (slotAbove s.sp 2)
    Instr.rts.opcode = 0x60 ∧ ∃ t, exec .rts s = .next t ∧ t.pc.toNat = (lo.toNat + 256 * hi.toNat + 1) % 65536 ∧
      t.sp.toNat = (s.sp.toNat + 2) % 256 ∧
      t.log = s.log ++
        [{ kind := .read, addr := slotAbove s.sp 1, value := lo, offset := s.k },
         { kind := .read, addr := slotAbove s.sp 2, value := hi, offset := s.k + 1 }] ∧
      t.k = s.k + 2 ∧ t.ram = s.ram ∧ t.dev = s.dev ∧ t.mapper = s.mapper ∧ KeepsMemory s t ∧ t.p = s.p ∧
      t.a = s.a ∧ t.x = s.x ∧ t.y = s.y ∧ KeepsStepFields s t ∧ t.cycles = s.cycles + 6

/-- R163 to R171: each branch goes to its target exactly when its condition holds, and only then pays for it: one cycle,
and `BRANCH_CROSS_EXTRA` more, by default one, into another page; it changes nothing else. -/
def Obligations.Branches : Prop :=
  ∀ (d : Byte) (s : State),
    let r := resolve (.rel d) s
    let extra := if r.crossed = true then s.config.branchCrossExtra else 0
    let taken (i : Instr) : Prop := exec i s = .next { s with pc := r.addr, cycles := s.cycles + 3 + extra }
    let passed (i : Instr) : Prop := exec i s = .next { s with cycles := s.cycles + 2 }
    (s.config = Config.default → s.config.branchCrossExtra = 1) ∧
    (if getFlag s.p .c = false then taken (.bcc d) ∧ passed (.bcs d) else passed (.bcc d) ∧ taken (.bcs d)) ∧
    (if getFlag s.p .z = true then taken (.beq d) ∧ passed (.bne d) else passed (.beq d) ∧ taken (.bne d)) ∧
    (if getFlag s.p .n = true then taken (.bmi d) ∧ passed (.bpl d) else passed (.bmi d) ∧ taken (.bpl d)) ∧
    (if getFlag s.p .v = false then taken (.bvc d) ∧ passed (.bvs d) else passed (.bvc d) ∧ taken (.bvs d))

/-! ### Stack, flags, system -/

/-- R180, R181: PHA pushes A, PHP pushes `P` with the break flag set; `S` drops by 1 modulo 256, `P` itself stays. -/
def Obligations.Pushes : Prop :=
  ∀ s : State, s.ram.wf = true →
    let effect (op : Byte) (i : Instr) (v : Byte) : Prop :=
      i.opcode = op ∧ ∃ t, exec i s = .next t ∧ t.sp.toNat = (s.sp.toNat + 255) % 256 ∧ memPeek t (slotBelow s.sp 0) = v ∧
        KeepsMemoryBut [slotBelow s.sp 0] s t ∧
        t.log = s.log ++ [{ kind := .write, addr := slotBelow s.sp 0, value := v, offset := s.k }] ∧
        t.k = s.k + 1 ∧ t.dev = s.dev ∧ t.mapper = s.mapper ∧ t.p = s.p ∧ t.a = s.a ∧ t.x = s.x ∧ t.y = s.y ∧
        t.pc = s.pc ∧ KeepsStepFields s t ∧ t.cycles = s.cycles + 3
    effect 0x48 .pha s.a ∧ effect 0x08 .php (setFlag s.p .b true)

/-- R182, R183: PLA pulls A and sets Z and N; PLP pulls `P` with break cleared and the unused bit set; `S` rises by 1
modulo 256. -/
def Obligations.Pulls : Prop :=
  ∀ s : State,
    let v := memPeek s (slotAbove s.sp 1)
    let pulled (op : Byte) (i : Instr) (t : State) : Prop :=
      i.opcode = op ∧ exec i s = .next t ∧ t.sp.toNat = (s.sp.toNat + 1) % 256 ∧
      t.log = s.log ++ [{ kind := .read, addr := slotAbove s.sp 1, value := v, offset := s.k }] ∧ t.k = s.k + 1 ∧
      t.ram = s.ram ∧ t.dev = s.dev ∧ t.mapper = s.mapper ∧ KeepsMemory s t ∧ t.x = s.x ∧ t.y = s.y ∧ t.pc = s.pc ∧
      KeepsStepFields s t ∧ t.cycles = s.cycles + 4
    (∃ t, pulled 0x68 .pla t ∧ t.a = v ∧ FlagsZN v t ∧ KeepsFlagsBut [.z, .n] s t) ∧
    (∃ t, pulled 0x28 .plp t ∧ t.a = s.a ∧ getFlag t.p .b = false ∧ getFlag t.p .u = true ∧
      ∀ f, f ≠ .b → f ≠ .u → getFlag t.p f = getFlag v f)

/-- R184 to R190: each flag instruction gives its one flag its value and changes nothing else. -/
def Obligations.FlagInstructions : Prop :=
  ∀ s : State,
    let sets (op : Byte) (i : Instr) (f : Flag) (b : Bool) : Prop :=
      i.opcode = op ∧ ∃ p', exec i s = .next { s with p := p', cycles := s.cycles + 2 } ∧ getFlag p' f = b ∧
        ∀ g, g ≠ f → getFlag p' g = getFlag s.p g
    sets 0x18 .clc .c false ∧ sets 0x38 .sec .c true ∧ sets 0x58 .cli .i false ∧ sets 0x78 .sei .i true ∧
    sets 0xD8 .cld .d false ∧ sets 0xF8 .sed .d true ∧ sets 0xB8 .clv .v false

/-- R191, R194: NOP, and an unknown opcode whatever its byte, change nothing but `cycles`. A step whose opcode byte is
NOP's or unknown moves `PC` past that one byte, costs 2 cycles, counts one instruction and records the one fetch; every
register, flag and byte of memory stays. The audit record (kept in the model's own field, log entry 6) names the byte and
NOP or the sentinel. In another configuration the same holds of every byte whose definition is NOP or the sentinel in one
byte without a penalty, at its base cost. -/
def Obligations.NopAndUnknownSteps : Prop :=
  (∀ (op : Byte) (s : State),
    exec .nop s = .next { s with cycles := s.cycles + 2 } ∧ exec (.unknown op) s = .next { s with cycles := s.cycles + 2 }) ∧
  ∀ s : State,
    let d := definitionAtPc s
    (s.config.row (memPeek s s.pc) = none → memPeek s s.pc = 0xEA ∨ memPeek s s.pc ∈ unknownOpcodes →
      d.mnemonic = (if memPeek s s.pc = 0xEA then .nop else .unknown) ∧ d.mode.length = 1 ∧ d.penalty = .none ∧
        d.baseCycles = 2) ∧
    (s.config = Config.default → s.config.row (memPeek s s.pc) = none ∧ s.config.sentinelMnemonic = "???") ∧
    (d.mnemonic = .nop ∨ d.mnemonic = .unknown → d.mode.length = 1 → d.penalty = .none →
      ∃ t, step s = .next t ∧ t.pc = s.pc + 1 ∧ t.cycles = s.cycles + d.baseCycles ∧ t.seq = s.seq + 1 ∧ t.a = s.a ∧
        t.x = s.x ∧ t.y = s.y ∧ t.sp = s.sp ∧ t.p = s.p ∧ t.ram = s.ram ∧ t.mapper = s.mapper ∧
        t.log = [{ kind := .read, addr := s.pc, value := memPeek s s.pc, offset := 0 }] ∧
        (IsMemory s s.pc → t.dev = s.dev) ∧
        ∃ au, t.audit = some au ∧ au.opcode = memPeek s s.pc ∧ au.microOps = t.log ∧
          au.mnemonic = if d.mnemonic = .nop then "NOP" else s.config.sentinelMnemonic)

/-- R192, R201, R205: BRK pushes the address two past its opcode, high byte first, then `P` with the break flag set,
sets I, and continues at the address at `BRK_VECTOR`, by default `0xFFFE`, `0xFFFF`; D and the other flags and the
registers stay. Three recorded writes, to the state `u` after the pushes, then two audited reads of the vector there. -/
def Obligations.BreakTakesSoftwareInterrupt : Prop :=
  ∀ s : State, s.ram.wf = true →
    let vector := s.config.brkVector
    let ret := (s.pc.toNat + 1) % 65536
    let status := setFlag s.p .b true
    (s.config = Config.default → vector = 0xFFFE ∧ vector + 1 = 0xFFFF) ∧ Instr.brk.opcode = 0x00 ∧
    ∃ u t, exec .brk s = .next t ∧
      (memPeek u (slotBelow s.sp 0)).toNat = ret / 256 ∧ (memPeek u (slotBelow s.sp 1)).toNat = ret % 256 ∧
      memPeek u (slotBelow s.sp 2) = status ∧
      KeepsMemoryBut [slotBelow s.sp 0, slotBelow s.sp 1, slotBelow s.sp 2] s u ∧
      u.log = s.log ++
        [{ kind := .write, addr := slotBelow s.sp 0, value := BitVec.ofNat 8 (ret / 256), offset := s.k },
         { kind := .write, addr := slotBelow s.sp 1, value := BitVec.ofNat 8 ret, offset := s.k + 1 },
         { kind := .write, addr := slotBelow s.sp 2, value := status, offset := s.k + 2 }] ∧
      u.k = s.k + 3 ∧ u.dev = s.dev ∧ u.mapper = s.mapper ∧ KeepsStepFields s u ∧
      (let lo := memRead u vector
       let hi := memRead lo.2 (vector + 1)
       t.pc.toNat = lo.1.toNat + 256 * hi.1.toNat ∧ SameBus hi.2 t) ∧
      t.sp.toNat = (s.sp.toNat + 253) % 256 ∧ getFlag t.p .i = true ∧ KeepsFlagsBut [.i] s t ∧ t.a = s.a ∧
      t.x = s.x ∧ t.y = s.y ∧ KeepsMemory u t ∧ KeepsStepFields s t ∧ t.cycles = s.cycles + 7

/-- R193, R206: RTI pulls `P` with break cleared and the unused bit set, then `PC` low and high, adding nothing; `S`
rises by 3 modulo 256. -/
def Obligations.ReturnFromInterrupt : Prop :=
  ∀ s : State,
    let v := memPeek s (slotAbove s.sp 1)
    let lo := memPeek s (slotAbove s.sp 2)
    let hi := memPeek s (slotAbove s.sp 3)
    Instr.rti.opcode = 0x40 ∧ ∃ t, exec .rti s = .next t ∧ t.pc.toNat = lo.toNat + 256 * hi.toNat ∧
      t.sp.toNat = (s.sp.toNat + 3) % 256 ∧
      getFlag t.p .b = false ∧ getFlag t.p .u = true ∧ (∀ f, f ≠ .b → f ≠ .u → getFlag t.p f = getFlag v f) ∧
      t.log = s.log ++
        [{ kind := .read, addr := slotAbove s.sp 1, value := v, offset := s.k },
         { kind := .read, addr := slotAbove s.sp 2, value := lo, offset := s.k + 1 },
         { kind := .read, addr := slotAbove s.sp 3, value := hi, offset := s.k + 2 }] ∧
      t.k = s.k + 3 ∧ t.ram = s.ram ∧ t.dev = s.dev ∧ t.mapper = s.mapper ∧ KeepsMemory s t ∧ t.a = s.a ∧
      t.x = s.x ∧ t.y = s.y ∧ KeepsStepFields s t ∧ t.cycles = s.cycles + 6

/-- R162, R193, R183: what was pushed comes back: RTS after JSR resumes after the JSR, RTI after BRK resumes two past the
BRK with the old status, PLP after PHP restores the status, break and unused bits normalized; `S` is as before. -/
def Obligations.StackRoundTrips : Prop :=
  ∀ (a : Word) (s t u : State), s.ram.wf = true →
    (exec (.jsr a) s = .next t → exec .rts t = .next u → u.pc = s.pc ∧ u.sp = s.sp ∧ u.p = s.p) ∧
    (exec .brk s = .next t → exec .rti t = .next u →
      u.pc = s.pc + 1 ∧ u.sp = s.sp ∧ u.p = setFlag (setFlag s.p .b false) .u true) ∧
    (exec .php s = .next t → exec .plp t = .next u →
      u.pc = s.pc ∧ u.sp = s.sp ∧ u.p = setFlag (setFlag s.p .b false) .u true) ∧
    (exec .pha s = .next t → exec .pla t = .next u → u.pc = s.pc ∧ u.sp = s.sp ∧ u.a = s.a)
end

