-- ==== Sys2Proof/Laws/Bits.lean ====
section
/-!
SUPPORT. The bit-field helpers in numbers, and the laws of the flags.
-/

namespace Sys2Proof

@[simp] theorem joinBytes_toNat (hi lo : Byte) : (joinBytes hi lo).toNat = 256 * hi.toNat + lo.toNat := by
  have h := lo.isLt
  unfold joinBytes
  rw [BitVec.toNat_append, ← Nat.shiftLeft_add_eq_or_of_lt h, Nat.shiftLeft_eq]
  omega

@[simp] theorem lowByte_toNat (w : Word) : (lowByte w).toNat = w.toNat % 256 := by simp [lowByte]

@[simp] theorem highByte_toNat (w : Word) : (highByte w).toNat = w.toNat / 256 := by
  have h := w.isLt
  simp [highByte, Nat.shiftRight_eq_div_pow]
  omega

theorem joinBytes_high_low (w : Word) : joinBytes (highByte w) (lowByte w) = w := by
  apply BitVec.eq_of_toNat_eq
  simp
  omega

@[simp] theorem lowByte_joinBytes (hi lo : Byte) : lowByte (joinBytes hi lo) = lo := by
  apply BitVec.eq_of_toNat_eq
  have := lo.isLt
  simp
  omega

@[simp] theorem highByte_joinBytes (hi lo : Byte) : highByte (joinBytes hi lo) = hi := by
  apply BitVec.eq_of_toNat_eq
  have := lo.isLt
  simp
  omega

namespace Machine

theorem Flag.bit_inj {f g : Flag} (h : f.bit = g.bit) : f = g := by cases f <;> cases g <;> simp_all [Flag.bit]

theorem Flag.bit_lt (f : Flag) : f.bit < 8 := by cases f <;> decide

/-- Writing a flag writes its bit and leaves the others (R7). -/
@[simp] theorem getFlag_setFlag (p : Byte) (f g : Flag) (b : Bool) :
    getFlag (setFlag p f b) g = if g = f then b else getFlag p g := by
  have hm : ∀ f g : Flag, f.mask.getLsbD g.bit = decide (g = f) := by
    intro f g; cases f <;> cases g <;> rfl
  have hg := g.bit_lt
  unfold getFlag setFlag
  cases b <;> by_cases h : g = f <;> simp [hm, h, hg, -BitVec.getLsbD_eq_getElem]

/-- A status byte is its eight flags. -/
theorem status_ext {p q : Byte} (h : ∀ f, getFlag p f = getFlag q f) : p = q := by
  apply BitVec.eq_of_getLsbD_eq
  intro i hi
  have hb : ∃ f : Flag, f.bit = i := by
    interval_cases i
    exacts [⟨.c, rfl⟩, ⟨.z, rfl⟩, ⟨.i, rfl⟩, ⟨.d, rfl⟩, ⟨.b, rfl⟩, ⟨.u, rfl⟩, ⟨.v, rfl⟩, ⟨.n, rfl⟩]
  obtain ⟨f, rfl⟩ := hb
  exact h f

/-- Bit 7 of a byte says whether it is at least 128. -/
theorem bit7_eq (v : Byte) : v.getLsbD 7 = decide (128 ≤ v.toNat) := by revert v; decide

theorem beq_zero_eq (v : Byte) : (v == 0) = decide (v.toNat = 0) := by revert v; decide

/-- `SetZN` in the flags (R101). -/
@[simp] theorem getFlag_withZN (p v : Byte) (g : Flag) :
    getFlag (withZN p v) g =
      if g = .n then decide (128 ≤ v.toNat) else if g = .z then decide (v.toNat = 0) else getFlag p g := by
  simp only [withZN, getFlag_setFlag, bit7_eq, beq_zero_eq]

/-- The byte PHP and BRK push is `P` with the break flag set (R18). -/
theorem pushedStatus_eq (p : Byte) : pushedStatus p = setFlag p .b true := rfl

/-- The status PLP and RTI restore: break clear, unused set (R18). -/
theorem restoredStatus_eq (v : Byte) : restoredStatus v = setFlag (setFlag v .b false) .u true := by
  revert v; decide

@[simp] theorem getFlag_restoredStatus (v : Byte) (g : Flag) :
    getFlag (restoredStatus v) g = if g = .u then true else if g = .b then false else getFlag v g := by
  rw [restoredStatus_eq]; simp

theorem carryIn_eq (p : Byte) : carryIn p = if getFlag p .c = true then 1 else 0 := by
  unfold carryIn; cases getFlag p .c <;> rfl

/-- Stack slots in numbers (R14). -/
theorem stackAddr_toNat (sp : Byte) : (stackAddr sp).toNat = 256 + sp.toNat := by simp [stackAddr]

theorem stackAddr_lt (sp : Byte) : (stackAddr sp).toNat < 0x2000 := by
  have := sp.isLt
  rw [stackAddr_toNat]; omega

theorem zeroPage_toNat (b : Byte) : (zeroPage b).toNat = b.toNat := by simp [zeroPage]

theorem zeroPage_lt (b : Byte) : (zeroPage b).toNat < 0x2000 := by
  have := b.isLt
  rw [zeroPage_toNat]; omega

/-- The RAM cell of an address: its low 11 bits (R32). -/
theorem ramIndex_eq (addr : Word) : ramIndex addr = addr.toNat % 2048 := by
  unfold ramIndex
  rw [BitVec.toNat_and, show (0x07FF : Word).toNat = 2 ^ 11 - 1 from rfl, Nat.and_two_pow_sub_one_eq_mod]

theorem ramIndex_lt (addr : Word) : ramIndex addr < 2048 := by
  rw [ramIndex_eq]; exact Nat.mod_lt _ (by norm_num)

/-- The offset of an address of the cartridge window (R40). -/
theorem romOffset_eq (len : Nat) {addr : Word} (h : 0x8000 ≤ addr.toNat) :
    romOffset len addr = if len = 16384 then (addr.toNat - 0x8000) % 16384 else addr.toNat - 0x8000 := by
  have hs : (addr - 0x8000).toNat = addr.toNat - 0x8000 := by
    have := addr.isLt
    rw [BitVec.toNat_sub, show (0x8000 : Word).toNat = 0x8000 from rfl]
    omega
  unfold romOffset
  rw [BitVec.toNat_and, show (0x3FFF : Word).toNat = 2 ^ 14 - 1 from rfl, Nat.and_two_pow_sub_one_eq_mod, hs]

/-- Two pages differ exactly when the high bytes do (R9 page cross). -/
theorem crosses_iff (base addr : Word) : crosses base addr = true ↔ addr.toNat / 256 ≠ base.toNat / 256 := by
  have hp : ∀ a : Word, (page a).toNat = a.toNat / 256 * 256 := by
    intro a
    have : page a = joinBytes (highByte a) 0 := by
      apply BitVec.eq_of_getLsbD_eq
      intro i hi
      unfold page joinBytes highByte
      rw [BitVec.getLsbD_append]
      interval_cases i <;> simp
    rw [this]; simp; omega
  unfold crosses
  rw [bne_iff_ne, ne_eq, ← BitVec.toNat_inj, hp, hp]
  omega

end Machine

end Sys2Proof
end

