-- ==== Sys2Proof/Laws/Memory.lean ====
section
/-!
SUPPORT. The laws of memory cells: a read after a write, the one form is kept by every operation, and two memories in
that form that read alike are the same list.
-/

namespace Sys2Proof.Machine

@[simp] theorem Memory.read_nil (a : Nat) : Memory.read [] a = Memory.unlisted := rfl

theorem Memory.wfFrom_mono {lo lo' : Nat} {m : Memory} (h : Memory.wfFrom lo m = true) (hl : lo' ≤ lo) :
    Memory.wfFrom lo' m = true := by
  cases m with
  | nil => rfl
  | cons c m =>
    simp only [Memory.wfFrom, Bool.and_eq_true, decide_eq_true_eq] at h ⊢
    exact ⟨⟨hl.trans h.1.1, h.1.2⟩, h.2⟩

/-- Below the first listed address everything reads as unlisted. -/
theorem Memory.read_below {lo : Nat} {m : Memory} (h : Memory.wfFrom lo m = true) {a : Nat} (ha : a < lo) :
    m.read a = Memory.unlisted := by
  induction m generalizing lo with
  | nil => rfl
  | cons c m ih =>
    simp only [Memory.wfFrom, Bool.and_eq_true, decide_eq_true_eq] at h
    have hne : a ≠ c.1 := by omega
    simp only [Memory.read, hne, if_false]
    exact ih h.2 (by omega)

theorem Memory.wfFrom_cons {lo a : Nat} {m : Memory} (v : Byte) (h : Memory.wfFrom (a + 1) m = true) (ha : lo ≤ a) :
    Memory.wfFrom lo (Memory.cons a v m) = true := by
  unfold Memory.cons
  split
  · exact Memory.wfFrom_mono h (by omega)
  · simp [Memory.wfFrom, *]

/-- A write keeps the one form. -/
theorem Memory.wfFrom_write {lo : Nat} {m : Memory} (h : Memory.wfFrom lo m = true) {a : Nat} (ha : lo ≤ a)
    (v : Byte) : Memory.wfFrom lo (m.write a v) = true := by
  induction m generalizing lo with
  | nil => exact Memory.wfFrom_cons v rfl ha
  | cons c m ih =>
    simp only [Memory.wfFrom, Bool.and_eq_true, decide_eq_true_eq] at h
    simp only [Memory.write]
    split
    · exact Memory.wfFrom_cons v (by simp [Memory.wfFrom, h.2, h.1.2]; omega) ha
    · split
      · subst a; exact Memory.wfFrom_cons v h.2 ha
      · simp only [Memory.wfFrom, Bool.and_eq_true, decide_eq_true_eq]
        exact ⟨h.1, ih h.2 (by omega)⟩

theorem Memory.wf_write {m : Memory} (h : m.wf = true) (a : Nat) (v : Byte) : (m.write a v).wf = true :=
  Memory.wfFrom_write h (Nat.zero_le a) v

theorem Memory.read_cons {a : Nat} (v : Byte) {m : Memory} (h : Memory.wfFrom (a + 1) m = true) (b : Nat) :
    (Memory.cons a v m).read b = if b = a then v else m.read b := by
  unfold Memory.cons
  by_cases hv : v = Memory.unlisted
  · by_cases hb : b = a
    · subst hb; simp [hv, Memory.read_below h]
    · simp [hv, hb]
  · simp [hv, Memory.read]

/-- A read after a write: the byte written at its address, and what was there everywhere else. -/
theorem Memory.read_write_from {lo : Nat} {m : Memory} (h : Memory.wfFrom lo m = true) (a b : Nat) (v : Byte) :
    (m.write a v).read b = if b = a then v else m.read b := by
  induction m generalizing lo with
  | nil => exact Memory.read_cons v rfl b
  | cons c m ih =>
    simp only [Memory.wfFrom, Bool.and_eq_true, decide_eq_true_eq] at h
    simp only [Memory.write]
    split
    · rename_i hlt
      exact Memory.read_cons v (by simp [Memory.wfFrom, h.2, h.1.2]; omega) b
    · split
      · subst a
        rw [Memory.read_cons v h.2 b]
        by_cases hb : b = c.1 <;> simp [Memory.read, hb]
      · rename_i hne
        simp only [Memory.read, ih h.2]
        by_cases hb : b = c.1
        · subst b; simp [Ne.symm hne]
        · simp [hb]

theorem Memory.read_write {m : Memory} (h : m.wf = true) (a b : Nat) (v : Byte) :
    (m.write a v).read b = if b = a then v else m.read b := Memory.read_write_from h a b v

theorem Memory.within_cons {n a : Nat} {m : Memory} (v : Byte) (h : m.within n = true) (ha : a < n) :
    (Memory.cons a v m).within n = true := by
  unfold Memory.cons
  split
  · exact h
  · simpa [Memory.within, ha] using h

theorem Memory.within_write {n : Nat} {m : Memory} (h : m.within n = true) {a : Nat} (ha : a < n) (v : Byte) :
    (m.write a v).within n = true := by
  induction m with
  | nil => exact Memory.within_cons v h ha
  | cons c m ih =>
    have hc : c.1 < n ∧ Memory.within n m = true := by simpa [Memory.within] using h
    simp only [Memory.write]
    split
    · exact Memory.within_cons v h ha
    · split
      · exact Memory.within_cons v hc.2 ha
      · have := ih hc.2
        simp only [Memory.within, List.all_cons, Bool.and_eq_true, decide_eq_true_eq] at this ⊢
        exact ⟨hc.1, this⟩

theorem Memory.wfFrom_ofBytesFrom (n : Nat) (bs : List Byte) : Memory.wfFrom n (Memory.ofBytesFrom n bs) = true := by
  induction bs generalizing n with
  | nil => rfl
  | cons b bs ih => exact Memory.wfFrom_cons b (ih (n + 1)) le_rfl

/-- A buffer loaded into memory is in the one form. -/
theorem Memory.wf_ofBytes (bs : List Byte) : (Memory.ofBytes bs).wf = true := Memory.wfFrom_ofBytesFrom 0 bs

theorem Memory.within_ofBytesFrom (n : Nat) (bs : List Byte) :
    (Memory.ofBytesFrom n bs).within (n + bs.length) = true := by
  induction bs generalizing n with
  | nil => rfl
  | cons b bs ih =>
    have := ih (n + 1)
    rw [show n + 1 + bs.length = n + (b :: bs).length by simp; omega] at this
    exact Memory.within_cons b this (by simp)

theorem Memory.read_ofBytesFrom (n k : Nat) (bs : List Byte) :
    (Memory.ofBytesFrom n bs).read (n + k) = bs.getD k Memory.unlisted := by
  induction bs generalizing n k with
  | nil => rfl
  | cons b bs ih =>
    rw [Memory.ofBytesFrom, Memory.read_cons b (Memory.wfFrom_ofBytesFrom (n + 1) bs)]
    cases k with
    | zero => simp
    | succ k =>
      rw [if_neg (by omega), show n + (k + 1) = n + 1 + k by omega, ih (n + 1) k]
      rfl

/-- A loaded buffer reads back byte for byte, and as unlisted beyond its end. -/
theorem Memory.read_ofBytes (bs : List Byte) (k : Nat) : (Memory.ofBytes bs).read k = bs.getD k Memory.unlisted := by
  have := Memory.read_ofBytesFrom 0 k bs
  rwa [Nat.zero_add] at this

/-- Two memories in the one form that read alike are the same list. -/
theorem Memory.ext_from {lo : Nat} {m m' : Memory} (h : Memory.wfFrom lo m = true) (h' : Memory.wfFrom lo m' = true)
    (hr : ∀ a, m.read a = m'.read a) : m = m' := by
  induction m generalizing lo m' with
  | nil =>
    cases m' with
    | nil => rfl
    | cons c m' =>
      simp only [Memory.wfFrom, Bool.and_eq_true, decide_eq_true_eq] at h'
      exact absurd ((hr c.1).symm.trans rfl) (by simpa [Memory.read] using h'.1.2)
  | cons c m ih =>
    simp only [Memory.wfFrom, Bool.and_eq_true, decide_eq_true_eq] at h
    cases m' with
    | nil => exact absurd ((hr c.1).trans rfl) (by simpa [Memory.read] using h.1.2)
    | cons d m' =>
      simp only [Memory.wfFrom, Bool.and_eq_true, decide_eq_true_eq] at h'
      have hcd : c.1 = d.1 := by
        rcases Nat.lt_trichotomy c.1 d.1 with hlt | heq | hlt
        · have := hr c.1
          rw [Memory.read, if_pos rfl, Memory.read, if_neg (by omega), Memory.read_below h'.2 (by omega)] at this
          exact absurd this h.1.2
        · exact heq
        · have := hr d.1
          rw [Memory.read, if_neg (by omega), Memory.read_below h.2 (by omega), Memory.read, if_pos rfl] at this
          exact absurd this.symm h'.1.2
      have hv : c.2 = d.2 := by
        have := hr c.1
        rwa [Memory.read, if_pos rfl, Memory.read, if_pos hcd] at this
      have hm : m = m' := by
        refine ih h.2 (hcd ▸ h'.2) fun a => ?_
        have := hr a
        by_cases ha : a < c.1 + 1
        · rw [Memory.read_below h.2 ha, Memory.read_below h'.2 (hcd ▸ ha)]
        · rwa [Memory.read, if_neg (by omega), Memory.read, if_neg (by omega)] at this
      rw [hm, Prod.ext hcd hv]

end Sys2Proof.Machine
end

