-- ==== Sys2Proof/Laws/State.lean ====
section
/-!
SUPPORT. One lemma per field per update of State, so that no proof unfolds a record update.
-/

namespace Sys2Proof.Machine

variable (s : State)

/-! `setA` -/

@[simp] theorem setA_a (v : Byte) : (s.setA v).a = v := rfl
@[simp] theorem setA_x (v : Byte) : (s.setA v).x = s.x := rfl
@[simp] theorem setA_y (v : Byte) : (s.setA v).y = s.y := rfl
@[simp] theorem setA_sp (v : Byte) : (s.setA v).sp = s.sp := rfl
@[simp] theorem setA_p (v : Byte) : (s.setA v).p = s.p := rfl
@[simp] theorem setA_pc (v : Byte) : (s.setA v).pc = s.pc := rfl
@[simp] theorem setA_cycles (v : Byte) : (s.setA v).cycles = s.cycles := rfl
@[simp] theorem setA_seq (v : Byte) : (s.setA v).seq = s.seq := rfl
@[simp] theorem setA_startCycle (v : Byte) : (s.setA v).startCycle = s.startCycle := rfl
@[simp] theorem setA_ram (v : Byte) : (s.setA v).ram = s.ram := rfl
@[simp] theorem setA_log (v : Byte) : (s.setA v).log = s.log := rfl
@[simp] theorem setA_k (v : Byte) : (s.setA v).k = s.k := rfl
@[simp] theorem setA_mapper (v : Byte) : (s.setA v).mapper = s.mapper := rfl
@[simp] theorem setA_dev (v : Byte) : (s.setA v).dev = s.dev := rfl
@[simp] theorem setA_rom (v : Byte) : (s.setA v).rom = s.rom := rfl
@[simp] theorem setA_romLength (v : Byte) : (s.setA v).romLength = s.romLength := rfl
@[simp] theorem setA_regWindow (v : Byte) : (s.setA v).regWindow = s.regWindow := rfl
@[simp] theorem setA_device (v : Byte) : (s.setA v).device = s.device := rfl
@[simp] theorem setA_config (v : Byte) : (s.setA v).config = s.config := rfl
@[simp] theorem setA_audit (v : Byte) : (s.setA v).audit = s.audit := rfl

/-! `setX` -/

@[simp] theorem setX_a (v : Byte) : (s.setX v).a = s.a := rfl
@[simp] theorem setX_x (v : Byte) : (s.setX v).x = v := rfl
@[simp] theorem setX_y (v : Byte) : (s.setX v).y = s.y := rfl
@[simp] theorem setX_sp (v : Byte) : (s.setX v).sp = s.sp := rfl
@[simp] theorem setX_p (v : Byte) : (s.setX v).p = s.p := rfl
@[simp] theorem setX_pc (v : Byte) : (s.setX v).pc = s.pc := rfl
@[simp] theorem setX_cycles (v : Byte) : (s.setX v).cycles = s.cycles := rfl
@[simp] theorem setX_seq (v : Byte) : (s.setX v).seq = s.seq := rfl
@[simp] theorem setX_startCycle (v : Byte) : (s.setX v).startCycle = s.startCycle := rfl
@[simp] theorem setX_ram (v : Byte) : (s.setX v).ram = s.ram := rfl
@[simp] theorem setX_log (v : Byte) : (s.setX v).log = s.log := rfl
@[simp] theorem setX_k (v : Byte) : (s.setX v).k = s.k := rfl
@[simp] theorem setX_mapper (v : Byte) : (s.setX v).mapper = s.mapper := rfl
@[simp] theorem setX_dev (v : Byte) : (s.setX v).dev = s.dev := rfl
@[simp] theorem setX_rom (v : Byte) : (s.setX v).rom = s.rom := rfl
@[simp] theorem setX_romLength (v : Byte) : (s.setX v).romLength = s.romLength := rfl
@[simp] theorem setX_regWindow (v : Byte) : (s.setX v).regWindow = s.regWindow := rfl
@[simp] theorem setX_device (v : Byte) : (s.setX v).device = s.device := rfl
@[simp] theorem setX_config (v : Byte) : (s.setX v).config = s.config := rfl
@[simp] theorem setX_audit (v : Byte) : (s.setX v).audit = s.audit := rfl

/-! `setY` -/

@[simp] theorem setY_a (v : Byte) : (s.setY v).a = s.a := rfl
@[simp] theorem setY_x (v : Byte) : (s.setY v).x = s.x := rfl
@[simp] theorem setY_y (v : Byte) : (s.setY v).y = v := rfl
@[simp] theorem setY_sp (v : Byte) : (s.setY v).sp = s.sp := rfl
@[simp] theorem setY_p (v : Byte) : (s.setY v).p = s.p := rfl
@[simp] theorem setY_pc (v : Byte) : (s.setY v).pc = s.pc := rfl
@[simp] theorem setY_cycles (v : Byte) : (s.setY v).cycles = s.cycles := rfl
@[simp] theorem setY_seq (v : Byte) : (s.setY v).seq = s.seq := rfl
@[simp] theorem setY_startCycle (v : Byte) : (s.setY v).startCycle = s.startCycle := rfl
@[simp] theorem setY_ram (v : Byte) : (s.setY v).ram = s.ram := rfl
@[simp] theorem setY_log (v : Byte) : (s.setY v).log = s.log := rfl
@[simp] theorem setY_k (v : Byte) : (s.setY v).k = s.k := rfl
@[simp] theorem setY_mapper (v : Byte) : (s.setY v).mapper = s.mapper := rfl
@[simp] theorem setY_dev (v : Byte) : (s.setY v).dev = s.dev := rfl
@[simp] theorem setY_rom (v : Byte) : (s.setY v).rom = s.rom := rfl
@[simp] theorem setY_romLength (v : Byte) : (s.setY v).romLength = s.romLength := rfl
@[simp] theorem setY_regWindow (v : Byte) : (s.setY v).regWindow = s.regWindow := rfl
@[simp] theorem setY_device (v : Byte) : (s.setY v).device = s.device := rfl
@[simp] theorem setY_config (v : Byte) : (s.setY v).config = s.config := rfl
@[simp] theorem setY_audit (v : Byte) : (s.setY v).audit = s.audit := rfl

/-! `setSp` -/

@[simp] theorem setSp_a (v : Byte) : (s.setSp v).a = s.a := rfl
@[simp] theorem setSp_x (v : Byte) : (s.setSp v).x = s.x := rfl
@[simp] theorem setSp_y (v : Byte) : (s.setSp v).y = s.y := rfl
@[simp] theorem setSp_sp (v : Byte) : (s.setSp v).sp = v := rfl
@[simp] theorem setSp_p (v : Byte) : (s.setSp v).p = s.p := rfl
@[simp] theorem setSp_pc (v : Byte) : (s.setSp v).pc = s.pc := rfl
@[simp] theorem setSp_cycles (v : Byte) : (s.setSp v).cycles = s.cycles := rfl
@[simp] theorem setSp_seq (v : Byte) : (s.setSp v).seq = s.seq := rfl
@[simp] theorem setSp_startCycle (v : Byte) : (s.setSp v).startCycle = s.startCycle := rfl
@[simp] theorem setSp_ram (v : Byte) : (s.setSp v).ram = s.ram := rfl
@[simp] theorem setSp_log (v : Byte) : (s.setSp v).log = s.log := rfl
@[simp] theorem setSp_k (v : Byte) : (s.setSp v).k = s.k := rfl
@[simp] theorem setSp_mapper (v : Byte) : (s.setSp v).mapper = s.mapper := rfl
@[simp] theorem setSp_dev (v : Byte) : (s.setSp v).dev = s.dev := rfl
@[simp] theorem setSp_rom (v : Byte) : (s.setSp v).rom = s.rom := rfl
@[simp] theorem setSp_romLength (v : Byte) : (s.setSp v).romLength = s.romLength := rfl
@[simp] theorem setSp_regWindow (v : Byte) : (s.setSp v).regWindow = s.regWindow := rfl
@[simp] theorem setSp_device (v : Byte) : (s.setSp v).device = s.device := rfl
@[simp] theorem setSp_config (v : Byte) : (s.setSp v).config = s.config := rfl
@[simp] theorem setSp_audit (v : Byte) : (s.setSp v).audit = s.audit := rfl

/-! `setP` -/

@[simp] theorem setP_a (v : Byte) : (s.setP v).a = s.a := rfl
@[simp] theorem setP_x (v : Byte) : (s.setP v).x = s.x := rfl
@[simp] theorem setP_y (v : Byte) : (s.setP v).y = s.y := rfl
@[simp] theorem setP_sp (v : Byte) : (s.setP v).sp = s.sp := rfl
@[simp] theorem setP_p (v : Byte) : (s.setP v).p = v := rfl
@[simp] theorem setP_pc (v : Byte) : (s.setP v).pc = s.pc := rfl
@[simp] theorem setP_cycles (v : Byte) : (s.setP v).cycles = s.cycles := rfl
@[simp] theorem setP_seq (v : Byte) : (s.setP v).seq = s.seq := rfl
@[simp] theorem setP_startCycle (v : Byte) : (s.setP v).startCycle = s.startCycle := rfl
@[simp] theorem setP_ram (v : Byte) : (s.setP v).ram = s.ram := rfl
@[simp] theorem setP_log (v : Byte) : (s.setP v).log = s.log := rfl
@[simp] theorem setP_k (v : Byte) : (s.setP v).k = s.k := rfl
@[simp] theorem setP_mapper (v : Byte) : (s.setP v).mapper = s.mapper := rfl
@[simp] theorem setP_dev (v : Byte) : (s.setP v).dev = s.dev := rfl
@[simp] theorem setP_rom (v : Byte) : (s.setP v).rom = s.rom := rfl
@[simp] theorem setP_romLength (v : Byte) : (s.setP v).romLength = s.romLength := rfl
@[simp] theorem setP_regWindow (v : Byte) : (s.setP v).regWindow = s.regWindow := rfl
@[simp] theorem setP_device (v : Byte) : (s.setP v).device = s.device := rfl
@[simp] theorem setP_config (v : Byte) : (s.setP v).config = s.config := rfl
@[simp] theorem setP_audit (v : Byte) : (s.setP v).audit = s.audit := rfl

/-! `setPc` -/

@[simp] theorem setPc_a (v : Word) : (s.setPc v).a = s.a := rfl
@[simp] theorem setPc_x (v : Word) : (s.setPc v).x = s.x := rfl
@[simp] theorem setPc_y (v : Word) : (s.setPc v).y = s.y := rfl
@[simp] theorem setPc_sp (v : Word) : (s.setPc v).sp = s.sp := rfl
@[simp] theorem setPc_p (v : Word) : (s.setPc v).p = s.p := rfl
@[simp] theorem setPc_pc (v : Word) : (s.setPc v).pc = v := rfl
@[simp] theorem setPc_cycles (v : Word) : (s.setPc v).cycles = s.cycles := rfl
@[simp] theorem setPc_seq (v : Word) : (s.setPc v).seq = s.seq := rfl
@[simp] theorem setPc_startCycle (v : Word) : (s.setPc v).startCycle = s.startCycle := rfl
@[simp] theorem setPc_ram (v : Word) : (s.setPc v).ram = s.ram := rfl
@[simp] theorem setPc_log (v : Word) : (s.setPc v).log = s.log := rfl
@[simp] theorem setPc_k (v : Word) : (s.setPc v).k = s.k := rfl
@[simp] theorem setPc_mapper (v : Word) : (s.setPc v).mapper = s.mapper := rfl
@[simp] theorem setPc_dev (v : Word) : (s.setPc v).dev = s.dev := rfl
@[simp] theorem setPc_rom (v : Word) : (s.setPc v).rom = s.rom := rfl
@[simp] theorem setPc_romLength (v : Word) : (s.setPc v).romLength = s.romLength := rfl
@[simp] theorem setPc_regWindow (v : Word) : (s.setPc v).regWindow = s.regWindow := rfl
@[simp] theorem setPc_device (v : Word) : (s.setPc v).device = s.device := rfl
@[simp] theorem setPc_config (v : Word) : (s.setPc v).config = s.config := rfl
@[simp] theorem setPc_audit (v : Word) : (s.setPc v).audit = s.audit := rfl

/-! `putFlag` -/

@[simp] theorem putFlag_a (f : Flag) (b : Bool) : (s.putFlag f b).a = s.a := rfl
@[simp] theorem putFlag_x (f : Flag) (b : Bool) : (s.putFlag f b).x = s.x := rfl
@[simp] theorem putFlag_y (f : Flag) (b : Bool) : (s.putFlag f b).y = s.y := rfl
@[simp] theorem putFlag_sp (f : Flag) (b : Bool) : (s.putFlag f b).sp = s.sp := rfl
@[simp] theorem putFlag_p (f : Flag) (b : Bool) : (s.putFlag f b).p = setFlag s.p f b := rfl
@[simp] theorem putFlag_pc (f : Flag) (b : Bool) : (s.putFlag f b).pc = s.pc := rfl
@[simp] theorem putFlag_cycles (f : Flag) (b : Bool) : (s.putFlag f b).cycles = s.cycles := rfl
@[simp] theorem putFlag_seq (f : Flag) (b : Bool) : (s.putFlag f b).seq = s.seq := rfl
@[simp] theorem putFlag_startCycle (f : Flag) (b : Bool) : (s.putFlag f b).startCycle = s.startCycle := rfl
@[simp] theorem putFlag_ram (f : Flag) (b : Bool) : (s.putFlag f b).ram = s.ram := rfl
@[simp] theorem putFlag_log (f : Flag) (b : Bool) : (s.putFlag f b).log = s.log := rfl
@[simp] theorem putFlag_k (f : Flag) (b : Bool) : (s.putFlag f b).k = s.k := rfl
@[simp] theorem putFlag_mapper (f : Flag) (b : Bool) : (s.putFlag f b).mapper = s.mapper := rfl
@[simp] theorem putFlag_dev (f : Flag) (b : Bool) : (s.putFlag f b).dev = s.dev := rfl
@[simp] theorem putFlag_rom (f : Flag) (b : Bool) : (s.putFlag f b).rom = s.rom := rfl
@[simp] theorem putFlag_romLength (f : Flag) (b : Bool) : (s.putFlag f b).romLength = s.romLength := rfl
@[simp] theorem putFlag_regWindow (f : Flag) (b : Bool) : (s.putFlag f b).regWindow = s.regWindow := rfl
@[simp] theorem putFlag_device (f : Flag) (b : Bool) : (s.putFlag f b).device = s.device := rfl
@[simp] theorem putFlag_config (f : Flag) (b : Bool) : (s.putFlag f b).config = s.config := rfl
@[simp] theorem putFlag_audit (f : Flag) (b : Bool) : (s.putFlag f b).audit = s.audit := rfl

/-! `setZN` -/

@[simp] theorem setZN_a (v : Byte) : (s.setZN v).a = s.a := rfl
@[simp] theorem setZN_x (v : Byte) : (s.setZN v).x = s.x := rfl
@[simp] theorem setZN_y (v : Byte) : (s.setZN v).y = s.y := rfl
@[simp] theorem setZN_sp (v : Byte) : (s.setZN v).sp = s.sp := rfl
@[simp] theorem setZN_p (v : Byte) : (s.setZN v).p = withZN s.p v := rfl
@[simp] theorem setZN_pc (v : Byte) : (s.setZN v).pc = s.pc := rfl
@[simp] theorem setZN_cycles (v : Byte) : (s.setZN v).cycles = s.cycles := rfl
@[simp] theorem setZN_seq (v : Byte) : (s.setZN v).seq = s.seq := rfl
@[simp] theorem setZN_startCycle (v : Byte) : (s.setZN v).startCycle = s.startCycle := rfl
@[simp] theorem setZN_ram (v : Byte) : (s.setZN v).ram = s.ram := rfl
@[simp] theorem setZN_log (v : Byte) : (s.setZN v).log = s.log := rfl
@[simp] theorem setZN_k (v : Byte) : (s.setZN v).k = s.k := rfl
@[simp] theorem setZN_mapper (v : Byte) : (s.setZN v).mapper = s.mapper := rfl
@[simp] theorem setZN_dev (v : Byte) : (s.setZN v).dev = s.dev := rfl
@[simp] theorem setZN_rom (v : Byte) : (s.setZN v).rom = s.rom := rfl
@[simp] theorem setZN_romLength (v : Byte) : (s.setZN v).romLength = s.romLength := rfl
@[simp] theorem setZN_regWindow (v : Byte) : (s.setZN v).regWindow = s.regWindow := rfl
@[simp] theorem setZN_device (v : Byte) : (s.setZN v).device = s.device := rfl
@[simp] theorem setZN_config (v : Byte) : (s.setZN v).config = s.config := rfl
@[simp] theorem setZN_audit (v : Byte) : (s.setZN v).audit = s.audit := rfl

/-! `addCycles` -/

@[simp] theorem addCycles_a (n : Nat) : (s.addCycles n).a = s.a := rfl
@[simp] theorem addCycles_x (n : Nat) : (s.addCycles n).x = s.x := rfl
@[simp] theorem addCycles_y (n : Nat) : (s.addCycles n).y = s.y := rfl
@[simp] theorem addCycles_sp (n : Nat) : (s.addCycles n).sp = s.sp := rfl
@[simp] theorem addCycles_p (n : Nat) : (s.addCycles n).p = s.p := rfl
@[simp] theorem addCycles_pc (n : Nat) : (s.addCycles n).pc = s.pc := rfl
@[simp] theorem addCycles_cycles (n : Nat) : (s.addCycles n).cycles = s.cycles + n := rfl
@[simp] theorem addCycles_seq (n : Nat) : (s.addCycles n).seq = s.seq := rfl
@[simp] theorem addCycles_startCycle (n : Nat) : (s.addCycles n).startCycle = s.startCycle := rfl
@[simp] theorem addCycles_ram (n : Nat) : (s.addCycles n).ram = s.ram := rfl
@[simp] theorem addCycles_log (n : Nat) : (s.addCycles n).log = s.log := rfl
@[simp] theorem addCycles_k (n : Nat) : (s.addCycles n).k = s.k := rfl
@[simp] theorem addCycles_mapper (n : Nat) : (s.addCycles n).mapper = s.mapper := rfl
@[simp] theorem addCycles_dev (n : Nat) : (s.addCycles n).dev = s.dev := rfl
@[simp] theorem addCycles_rom (n : Nat) : (s.addCycles n).rom = s.rom := rfl
@[simp] theorem addCycles_romLength (n : Nat) : (s.addCycles n).romLength = s.romLength := rfl
@[simp] theorem addCycles_regWindow (n : Nat) : (s.addCycles n).regWindow = s.regWindow := rfl
@[simp] theorem addCycles_device (n : Nat) : (s.addCycles n).device = s.device := rfl
@[simp] theorem addCycles_config (n : Nat) : (s.addCycles n).config = s.config := rfl
@[simp] theorem addCycles_audit (n : Nat) : (s.addCycles n).audit = s.audit := rfl

/-! `record` -/

@[simp] theorem record_a (d : AccessKind) (w : Word) (v : Byte) : (s.record d w v).a = s.a := rfl
@[simp] theorem record_x (d : AccessKind) (w : Word) (v : Byte) : (s.record d w v).x = s.x := rfl
@[simp] theorem record_y (d : AccessKind) (w : Word) (v : Byte) : (s.record d w v).y = s.y := rfl
@[simp] theorem record_sp (d : AccessKind) (w : Word) (v : Byte) : (s.record d w v).sp = s.sp := rfl
@[simp] theorem record_p (d : AccessKind) (w : Word) (v : Byte) : (s.record d w v).p = s.p := rfl
@[simp] theorem record_pc (d : AccessKind) (w : Word) (v : Byte) : (s.record d w v).pc = s.pc := rfl
@[simp] theorem record_cycles (d : AccessKind) (w : Word) (v : Byte) : (s.record d w v).cycles = s.cycles := rfl
@[simp] theorem record_seq (d : AccessKind) (w : Word) (v : Byte) : (s.record d w v).seq = s.seq := rfl
@[simp] theorem record_startCycle (d : AccessKind) (w : Word) (v : Byte) : (s.record d w v).startCycle = s.startCycle := rfl
@[simp] theorem record_ram (d : AccessKind) (w : Word) (v : Byte) : (s.record d w v).ram = s.ram := rfl
@[simp] theorem record_log (d : AccessKind) (w : Word) (v : Byte) : (s.record d w v).log = s.log ++ [{ kind := d, addr := w, value := v, offset := s.k }] := rfl
@[simp] theorem record_k (d : AccessKind) (w : Word) (v : Byte) : (s.record d w v).k = s.k + 1 := rfl
@[simp] theorem record_mapper (d : AccessKind) (w : Word) (v : Byte) : (s.record d w v).mapper = s.mapper := rfl
@[simp] theorem record_dev (d : AccessKind) (w : Word) (v : Byte) : (s.record d w v).dev = s.dev := rfl
@[simp] theorem record_rom (d : AccessKind) (w : Word) (v : Byte) : (s.record d w v).rom = s.rom := rfl
@[simp] theorem record_romLength (d : AccessKind) (w : Word) (v : Byte) : (s.record d w v).romLength = s.romLength := rfl
@[simp] theorem record_regWindow (d : AccessKind) (w : Word) (v : Byte) : (s.record d w v).regWindow = s.regWindow := rfl
@[simp] theorem record_device (d : AccessKind) (w : Word) (v : Byte) : (s.record d w v).device = s.device := rfl
@[simp] theorem record_config (d : AccessKind) (w : Word) (v : Byte) : (s.record d w v).config = s.config := rfl
@[simp] theorem record_audit (d : AccessKind) (w : Word) (v : Byte) : (s.record d w v).audit = s.audit := rfl

/-! `clearLog` -/

@[simp] theorem clearLog_a : (s.clearLog).a = s.a := rfl
@[simp] theorem clearLog_x : (s.clearLog).x = s.x := rfl
@[simp] theorem clearLog_y : (s.clearLog).y = s.y := rfl
@[simp] theorem clearLog_sp : (s.clearLog).sp = s.sp := rfl
@[simp] theorem clearLog_p : (s.clearLog).p = s.p := rfl
@[simp] theorem clearLog_pc : (s.clearLog).pc = s.pc := rfl
@[simp] theorem clearLog_cycles : (s.clearLog).cycles = s.cycles := rfl
@[simp] theorem clearLog_seq : (s.clearLog).seq = s.seq := rfl
@[simp] theorem clearLog_startCycle : (s.clearLog).startCycle = s.startCycle := rfl
@[simp] theorem clearLog_ram : (s.clearLog).ram = s.ram := rfl
@[simp] theorem clearLog_log : (s.clearLog).log = [] := rfl
@[simp] theorem clearLog_k : (s.clearLog).k = 0 := rfl
@[simp] theorem clearLog_mapper : (s.clearLog).mapper = s.mapper := rfl
@[simp] theorem clearLog_dev : (s.clearLog).dev = s.dev := rfl
@[simp] theorem clearLog_rom : (s.clearLog).rom = s.rom := rfl
@[simp] theorem clearLog_romLength : (s.clearLog).romLength = s.romLength := rfl
@[simp] theorem clearLog_regWindow : (s.clearLog).regWindow = s.regWindow := rfl
@[simp] theorem clearLog_device : (s.clearLog).device = s.device := rfl
@[simp] theorem clearLog_config : (s.clearLog).config = s.config := rfl
@[simp] theorem clearLog_audit : (s.clearLog).audit = s.audit := rfl

/-! `beginStep` -/

@[simp] theorem beginStep_a : (beginStep s).a = s.a := rfl
@[simp] theorem beginStep_x : (beginStep s).x = s.x := rfl
@[simp] theorem beginStep_y : (beginStep s).y = s.y := rfl
@[simp] theorem beginStep_sp : (beginStep s).sp = s.sp := rfl
@[simp] theorem beginStep_p : (beginStep s).p = s.p := rfl
@[simp] theorem beginStep_pc : (beginStep s).pc = s.pc := rfl
@[simp] theorem beginStep_cycles : (beginStep s).cycles = s.cycles := rfl
@[simp] theorem beginStep_seq : (beginStep s).seq = s.seq := rfl
@[simp] theorem beginStep_startCycle : (beginStep s).startCycle = s.cycles := rfl
@[simp] theorem beginStep_ram : (beginStep s).ram = s.ram := rfl
@[simp] theorem beginStep_log : (beginStep s).log = [] := rfl
@[simp] theorem beginStep_k : (beginStep s).k = 0 := rfl
@[simp] theorem beginStep_mapper : (beginStep s).mapper = s.mapper := rfl
@[simp] theorem beginStep_dev : (beginStep s).dev = s.dev := rfl
@[simp] theorem beginStep_rom : (beginStep s).rom = s.rom := rfl
@[simp] theorem beginStep_romLength : (beginStep s).romLength = s.romLength := rfl
@[simp] theorem beginStep_regWindow : (beginStep s).regWindow = s.regWindow := rfl
@[simp] theorem beginStep_device : (beginStep s).device = s.device := rfl
@[simp] theorem beginStep_config : (beginStep s).config = s.config := rfl
@[simp] theorem beginStep_audit : (beginStep s).audit = s.audit := rfl

/-! `endStep` -/

@[simp] theorem endStep_a (o : Byte) (m : Mnemonic) : (endStep o m s).a = s.a := rfl
@[simp] theorem endStep_x (o : Byte) (m : Mnemonic) : (endStep o m s).x = s.x := rfl
@[simp] theorem endStep_y (o : Byte) (m : Mnemonic) : (endStep o m s).y = s.y := rfl
@[simp] theorem endStep_sp (o : Byte) (m : Mnemonic) : (endStep o m s).sp = s.sp := rfl
@[simp] theorem endStep_p (o : Byte) (m : Mnemonic) : (endStep o m s).p = s.p := rfl
@[simp] theorem endStep_pc (o : Byte) (m : Mnemonic) : (endStep o m s).pc = s.pc := rfl
@[simp] theorem endStep_cycles (o : Byte) (m : Mnemonic) : (endStep o m s).cycles = s.cycles := rfl
@[simp] theorem endStep_seq (o : Byte) (m : Mnemonic) : (endStep o m s).seq = s.seq + 1 := rfl
@[simp] theorem endStep_startCycle (o : Byte) (m : Mnemonic) : (endStep o m s).startCycle = s.startCycle := rfl
@[simp] theorem endStep_ram (o : Byte) (m : Mnemonic) : (endStep o m s).ram = s.ram := rfl
@[simp] theorem endStep_log (o : Byte) (m : Mnemonic) : (endStep o m s).log = s.log := rfl
@[simp] theorem endStep_k (o : Byte) (m : Mnemonic) : (endStep o m s).k = s.k := rfl
@[simp] theorem endStep_mapper (o : Byte) (m : Mnemonic) : (endStep o m s).mapper = s.mapper := rfl
@[simp] theorem endStep_dev (o : Byte) (m : Mnemonic) : (endStep o m s).dev = s.dev := rfl
@[simp] theorem endStep_rom (o : Byte) (m : Mnemonic) : (endStep o m s).rom = s.rom := rfl
@[simp] theorem endStep_romLength (o : Byte) (m : Mnemonic) : (endStep o m s).romLength = s.romLength := rfl
@[simp] theorem endStep_regWindow (o : Byte) (m : Mnemonic) : (endStep o m s).regWindow = s.regWindow := rfl
@[simp] theorem endStep_device (o : Byte) (m : Mnemonic) : (endStep o m s).device = s.device := rfl
@[simp] theorem endStep_config (o : Byte) (m : Mnemonic) : (endStep o m s).config = s.config := rfl
@[simp] theorem endStep_audit (o : Byte) (m : Mnemonic) : (endStep o m s).audit = some { seq := s.seq, opcode := o, mnemonic := s.config.text m, startCycle := s.startCycle, microOps := s.log, snapshot := s.snapshot } := rfl

/-! `applyReset` -/

@[simp] theorem applyReset_a : (s.applyReset).a = 0x00 := rfl
@[simp] theorem applyReset_x : (s.applyReset).x = 0x00 := rfl
@[simp] theorem applyReset_y : (s.applyReset).y = 0x00 := rfl
@[simp] theorem applyReset_sp : (s.applyReset).sp = s.config.resetS := rfl
@[simp] theorem applyReset_p : (s.applyReset).p = Config.resetP := rfl
@[simp] theorem applyReset_pc : (s.applyReset).pc = joinBytes (memPeek s (Config.resetVector + 1)) (memPeek s Config.resetVector) := rfl
@[simp] theorem applyReset_cycles : (s.applyReset).cycles = Config.resetCycles := rfl
@[simp] theorem applyReset_seq : (s.applyReset).seq = 0 := rfl
@[simp] theorem applyReset_startCycle : (s.applyReset).startCycle = s.startCycle := rfl
@[simp] theorem applyReset_ram : (s.applyReset).ram = s.ram := rfl
@[simp] theorem applyReset_log : (s.applyReset).log = s.log := rfl
@[simp] theorem applyReset_k : (s.applyReset).k = s.k := rfl
@[simp] theorem applyReset_mapper : (s.applyReset).mapper = s.mapper := rfl
@[simp] theorem applyReset_dev : (s.applyReset).dev = s.dev := rfl
@[simp] theorem applyReset_rom : (s.applyReset).rom = s.rom := rfl
@[simp] theorem applyReset_romLength : (s.applyReset).romLength = s.romLength := rfl
@[simp] theorem applyReset_regWindow : (s.applyReset).regWindow = s.regWindow := rfl
@[simp] theorem applyReset_device : (s.applyReset).device = s.device := rfl
@[simp] theorem applyReset_config : (s.applyReset).config = s.config := rfl
@[simp] theorem applyReset_audit : (s.applyReset).audit = s.audit := rfl

end Sys2Proof.Machine
end

