-- ==== Sys2Proof/Laws/Bus.lean ====
section
/-!
SUPPORT. What each bus and stack operation does, said once: the value it answers and the state it leaves, as one
record update.
-/

namespace Sys2Proof.Machine

/-! ### Routing -/

/-- Below `0x2000` a read is a RAM cell and touches no device (R32). -/
theorem route_ram (s : State) {addr : Word} (h : addr.toNat < 0x2000) :
    s.route addr = (s.ram.read (addr.toNat % 2048), s.dev) := by
  simp [State.route, h, ramIndex_eq]

/-- Where the address is no device register, the device keeps its state. -/
theorem route_dev (s : State) {addr : Word} (h : IsMemory s addr) : (s.route addr).2 = s.dev := by
  unfold State.route
  split
  · rfl
  · split
    · rename_i h1 h2; exact absurd h2 (h.resolve_left h1)
    · split <;> rfl

theorem memPeek_ram (s : State) {addr : Word} (h : addr.toNat < 0x2000) :
    memPeek s addr = s.ram.read (addr.toNat % 2048) := by
  rw [memPeek, route_ram s h]

/-- What the device answers depends on its state and its hooks only (R211). -/
theorem devRead_congr {s t : State} (hdev : t.dev = s.dev) (hhooks : t.device = s.device) (addr : Word) :
    t.devRead addr = s.devRead addr := by
  rw [State.devRead, State.devRead, hdev, hhooks]

/-- A peek depends on RAM, ROM, mapper and window, and on the device only in the register window. -/
theorem memPeek_congr {s t : State} {addr : Word} (hram : t.ram = s.ram) (hrom : t.rom = s.rom)
    (hlen : t.romLength = s.romLength) (hmap : t.mapper = s.mapper) (hwin : t.regWindow = s.regWindow)
    (hdev : t.dev = s.dev ∧ t.device = s.device ∨ IsMemory s addr) : memPeek t addr = memPeek s addr := by
  unfold memPeek State.route
  rw [hwin, hram]
  split
  · rfl
  · split
    · rename_i h1 h2
      rcases hdev with hdev | hdev
      · rw [devRead_congr hdev.1 hdev.2]
      · exact absurd h2 (hdev.resolve_left h1)
    · simp only [State.mapperRead, hmap, hrom, hlen]
      split <;> rfl

/-! ### Reads -/

/-- A read answers the peek, keeps the device's side effect and appends its micro-op (R31, R43). -/
theorem memRead_eq (s : State) (addr : Word) :
    memRead s addr = (memPeek s addr,
      { s with
        dev := (s.route addr).2
        log := s.log ++ [{ kind := .read, addr := addr, value := memPeek s addr, offset := s.k }]
        k := s.k + 1 }) := rfl

@[simp] theorem memRead_fst (s : State) (addr : Word) : (memRead s addr).1 = memPeek s addr := rfl

/-- A read of memory changes the recorder and nothing else. -/
theorem memRead_memory (s : State) {addr : Word} (h : IsMemory s addr) :
    memRead s addr = (memPeek s addr,
      { s with
        log := s.log ++ [{ kind := .read, addr := addr, value := memPeek s addr, offset := s.k }]
        k := s.k + 1 }) := by
  rw [memRead_eq, route_dev s h]

theorem memRead_keepsMemory (s : State) (addr : Word) : KeepsMemory s (memRead s addr).2 :=
  fun _ hb => memPeek_congr rfl rfl rfl rfl rfl (.inr hb)

/-! ### Writes -/

/-- A write below `0x2000` sets its RAM cell and is recorded (R37). -/
theorem memWrite_ram (s : State) {addr : Word} (h : addr.toNat < 0x2000) (v : Byte) :
    memWrite s addr v =
      { s with
        ram := s.ram.write (addr.toNat % 2048) v
        log := s.log ++ [{ kind := .write, addr := addr, value := v, offset := s.k }]
        k := s.k + 1 } := by
  simp only [memWrite, State.routeWrite, if_pos h, ramIndex_eq]
  rfl

/-- What any write leaves: RAM, device and mapper possibly changed, the micro-op appended, all else kept. -/
theorem memWrite_eq (s : State) (addr : Word) (v : Byte) :
    memWrite s addr v =
      { s with
        ram := (memWrite s addr v).ram
        dev := (memWrite s addr v).dev
        mapper := (memWrite s addr v).mapper
        log := s.log ++ [{ kind := .write, addr := addr, value := v, offset := s.k }]
        k := s.k + 1 } := by
  unfold memWrite State.routeWrite
  repeat' split
  all_goals rfl

/-- RAM stays in its one form, with its 2048 cells, under every write. -/
theorem memWrite_ram_wf {s : State} (h : s.ram.wf = true) (addr : Word) (v : Byte) :
    (memWrite s addr v).ram.wf = true := by
  unfold memWrite State.routeWrite
  repeat' split
  · exact Memory.wf_write h _ v
  all_goals exact h

theorem memWrite_ram_within {s : State} (h : s.ram.within 2048 = true) (addr : Word) (v : Byte) :
    (memWrite s addr v).ram.within 2048 = true := by
  unfold memWrite State.routeWrite
  repeat' split
  · exact Memory.within_write h (ramIndex_lt addr) v
  all_goals exact h

/-- The fixed-ROM mapper stays, and no other mapper becomes it. -/
theorem memWrite_mapper_fixed (s : State) (addr : Word) (v : Byte) :
    (memWrite s addr v).mapper = .fixedRom ↔ s.mapper = .fixedRom := by
  unfold memWrite State.routeWrite
  repeat' split
  all_goals try exact Iff.rfl
  simp only [record_mapper, State.mapperWrite]
  split <;> simp_all

/-- A write changes only what aliases its address. -/
theorem memWrite_keepsMemoryBut {s : State} (h : s.ram.wf = true) (addr : Word) (v : Byte) :
    KeepsMemoryBut [addr] s (memWrite s addr v) := by
  intro b hb hal
  have hal : ¬ Aliases s addr b := hal addr (by simp)
  unfold memWrite State.routeWrite
  split
  · rename_i ha
    by_cases hlt : b.toNat < 0x2000
    · rw [memPeek_ram _ hlt, memPeek_ram _ hlt]
      simp only [record_ram, ramIndex_eq]
      rw [Memory.read_write h, if_neg]
      exact fun hc => hal (.inl ⟨ha, hlt, hc.symm⟩)
    · have hw : b ∉ s.regWindow := hb.resolve_left hlt
      simp only [memPeek, State.route, record_regWindow, hlt, hw, if_false]
      split <;> rfl
  · split
    · exact memPeek_congr rfl rfl rfl rfl rfl (.inr hb)
    · split
      · rename_i ha _ _
        by_cases hm : s.mapper = .fixedRom
        · exact memPeek_congr rfl rfl rfl (by simp [State.mapperWrite, hm]) rfl (.inr hb)
        · have hlt : ¬ 0x8000 ≤ b.toNat := fun hc => hal (.inr ⟨by assumption, hc, hm⟩)
          unfold memPeek State.route
          simp only [record_ram, record_dev, record_regWindow, hlt, if_false]
          rfl
      · exact memPeek_congr rfl rfl rfl rfl rfl (.inr hb)

/-- The byte written below `0x2000` is read back. -/
theorem memPeek_memWrite {s : State} (h : s.ram.wf = true) {addr : Word} (ha : addr.toNat < 0x2000) (v : Byte) :
    memPeek (memWrite s addr v) addr = v := by
  rw [memPeek_ram _ ha, memWrite_ram s ha, Memory.read_write h, if_pos rfl]

/-! ### The stack -/

theorem stackAddr_cell (sp : Byte) : (stackAddr sp).toNat % 2048 = 256 + sp.toNat := by
  have := sp.isLt
  rw [stackAddr_toNat]; omega

/-- A push (R102) as one update. -/
theorem push_eq (s : State) (v : Byte) :
    push s v =
      { s with
        ram := s.ram.write (256 + s.sp.toNat) v
        sp := s.sp - 1
        log := s.log ++ [{ kind := .write, addr := stackAddr s.sp, value := v, offset := s.k }]
        k := s.k + 1 } := by
  rw [push, memWrite_ram s (stackAddr_lt s.sp), stackAddr_cell]
  rfl

/-- A pull (R103) as one update. -/
theorem pull_eq (s : State) :
    pull s = (s.ram.read (256 + (s.sp + 1).toNat),
      { s with
        sp := s.sp + 1
        log := s.log ++ [{ kind := .read, addr := stackAddr (s.sp + 1),
                           value := s.ram.read (256 + (s.sp + 1).toNat), offset := s.k }]
        k := s.k + 1 }) := by
  rw [pull, memRead_memory _ (.inl (stackAddr_lt _)), memPeek_ram _ (stackAddr_lt _), stackAddr_cell]
  rfl

theorem slotAbove_eq (sp : Byte) (n : Nat) : slotAbove sp n = stackAddr (sp + BitVec.ofNat 8 n) := by
  apply BitVec.eq_of_toNat_eq
  rw [stackAddr_toNat, slotAbove, BitVec.toNat_ofNat, BitVec.toNat_add, BitVec.toNat_ofNat]
  have := sp.isLt
  omega

theorem slotBelow_eq (sp : Byte) {n : Nat} (hn : n < 256) : slotBelow sp n = stackAddr (sp - BitVec.ofNat 8 n) := by
  apply BitVec.eq_of_toNat_eq
  rw [stackAddr_toNat, slotBelow, BitVec.toNat_ofNat, BitVec.toNat_sub, BitVec.toNat_ofNat]
  have := sp.isLt
  omega

/-! ### Fetching -/

/-- A fetch (R82) as one update. -/
theorem fetch8_eq (s : State) :
    fetch8 s = (memPeek s s.pc,
      { s with
        pc := s.pc + 1
        dev := (s.route s.pc).2
        log := s.log ++ [{ kind := .read, addr := s.pc, value := memPeek s s.pc, offset := s.k }]
        k := s.k + 1 }) := rfl

end Sys2Proof.Machine
end

