-- ==== Sys2Proof/Laws/Encoding.lean ====
section
/-!
SUPPORT. What `assemble` gives for every opcode byte, so that no proof splits its table: only the operand depends on the
operand bytes, and it is the operand the mode assembles from them.
-/

namespace Sys2Proof

/-- A property of bytes holds of every byte if it holds of the 256 numbers. -/
theorem forall_byte {P : Byte → Prop} (h : ∀ n, n < 256 → P (BitVec.ofNat 8 n)) (b : Byte) : P b := by
  have := h b.toNat b.isLt
  rwa [BitVec.ofNat_toNat, BitVec.setWidth_eq] at this

/-- The row of an assembled instruction: the opcode byte's, with the operand its mode assembles. -/
theorem assemble_form (b0 b1 b2 : Byte) :
    (assemble b0 b1 b2).form =
      { (assemble b0 0 0).form with operand := (assemble b0 0 0).operand.mode.assembled b1 b2 } := by
  revert b0
  apply forall_byte
  intro n hn
  interval_cases n <;> rfl

end Sys2Proof
end

