-- ==== Sys2Proof/Laws/Config.lean ====
section
/-!
SUPPORT. What a configuration gives (R6): the definition of an opcode byte, with a row and without one, the costs of a
definition the model allows; and what the hooks given at launch answer.
-/

namespace Sys2Proof

/-! ### The opcode table -/

theorem Configuration.definition_row {c : Configuration} {op : Byte} {d : InstructionDef} (h : c.row op = some d) :
    c.definition op = d := by rw [Configuration.definition, h]; rfl

theorem Configuration.definition_noRow {c : Configuration} {op : Byte} (h : c.row op = none) :
    c.definition op = defaultDefinition op := by rw [Configuration.definition, h]; rfl

/-- Without rows every byte is the default table's. -/
theorem Configuration.row_default {c : Configuration} (h : c.opcodes = []) (op : Byte) : c.row op = none := by
  rw [Configuration.row, h]; rfl

/-- A byte's row is one of the rows, and names the byte. -/
theorem Configuration.row_some {c : Configuration} {op : Byte} {d : InstructionDef} (h : c.row op = some d) :
    d ∈ c.opcodes ∧ d.opcode = op :=
  ⟨List.mem_of_find?_eq_some h, by simpa using List.find?_some h⟩

theorem Configuration.text_unknown (c : Configuration) : c.text .unknown = c.sentinelMnemonic := if_pos rfl

theorem Configuration.text_known (c : Configuration) {m : Mnemonic} (h : m ≠ .unknown) : c.text m = m.text := if_neg h

/-! ### Costs -/

/-- What every row of the default table costs (R65, R99). -/
theorem Instr.form_bounds (i : Instr) (crossExtra : Nat) (h : crossExtra ≤ 1) :
    2 ≤ i.form.baseCycles ∧ i.form.baseCycles + i.form.penalty.most crossExtra ≤ 7 := by
  cases i <;> simp only [Instr.form, Config.unknownCycles, Penalty.most] <;> omega

/-- The cost of a definition is at least its base cost, and at most that and the most its penalty class adds. -/
theorem InstructionDef.cost_bounds (d : InstructionDef) (crossExtra : Nat) (crossed taken : Bool) :
    d.baseCycles ≤ d.cost crossExtra crossed taken ∧
      d.cost crossExtra crossed taken ≤ d.baseCycles + d.penalty.most crossExtra := by
  unfold InstructionDef.cost
  cases d.penalty <;> cases crossed <;> cases taken <;> simp [Penalty.most]

/-- What a definition the model allows costs (R99), and that its micro-ops are no more (R45). -/
theorem InstructionDef.allowed_bounds {d : InstructionDef} {crossExtra : Nat} (h : d.allowed crossExtra = true) :
    2 ≤ d.baseCycles ∧ d.baseCycles + d.penalty.most crossExtra ≤ 7 ∧ d.microOps ≤ d.baseCycles := by
  simp only [InstructionDef.allowed, Bool.and_eq_true, decide_eq_true_eq] at h
  exact ⟨h.1.1.1.2, h.1.1.2, h.1.2⟩

/-- Every row of the default table is one the model allows, with either value of `BRANCH_CROSS_EXTRA`. -/
theorem defaultDefinition_allowed (op : Byte) {crossExtra : Nat} (h : crossExtra ≤ 1) :
    (defaultDefinition op).allowed crossExtra = true := by
  revert op
  apply forall_byte
  intro n hn
  interval_cases crossExtra <;> interval_cases n <;> rfl

/-- In a configuration the model allows every byte has a definition it allows. -/
theorem Configuration.definition_allowed {c : Configuration} (h : c.wellFormed = true) (op : Byte) :
    (c.definition op).allowed c.branchCrossExtra = true := by
  simp only [Configuration.wellFormed, Bool.and_eq_true, decide_eq_true_eq, List.all_eq_true] at h
  cases hr : c.row op with
  | none => rw [c.definition_noRow hr]; exact defaultDefinition_allowed op h.1
  | some d => rw [c.definition_row hr]; exact h.2 d (Configuration.row_some hr).1

namespace Machine

/-! ### The hooks given at launch -/

/-- Looking a value up in rows answers as the rows give it. -/
theorem rowOr_givenByRows {α β : Type} (p : α → Prop) [DecidablePred p] (value : α → β) (rows : List α) (free : β) :
    GivenByRows p value rows free (rowOr rows (fun r => decide (p r)) value free) := by
  constructor
  · rintro r ⟨before, after, rfl, hb, hr⟩
    have : (before ++ r :: after).find? (fun r => decide (p r)) = some r :=
      List.find?_eq_some_iff_append.mpr ⟨decide_eq_true hr, before, after, rfl, fun q hq => by simpa using hb q hq⟩
    rw [rowOr, this]
  · intro h
    have : rows.find? (fun r => decide (p r)) = none := List.find?_eq_none.mpr fun r hr => by simpa using h r hr
    rw [rowOr, this]

/-- `DevRead` answers as the rows of the device given at launch say. -/
theorem devRead_givenByRows (s : State) (addr : Word) :
    GivenByRows (fun r : DevReadRow => r.dev = s.dev ∧ r.addr = addr) (fun r => (r.value, r.next)) s.device.reads
      (Config.devRead s.device.id s.dev addr) (s.devRead addr) := rowOr_givenByRows ..

/-- `DevWrite` answers as the rows of the device given at launch say. -/
theorem devWrite_givenByRows (s : State) (addr : Word) (v : Byte) :
    GivenByRows (fun r : DevWriteRow => r.dev = s.dev ∧ r.addr = addr ∧ r.value = v) DevWriteRow.next s.device.writes
      (Config.devWrite s.device.id s.dev addr v) (s.devWrite addr v) := rowOr_givenByRows ..

/-- `cpuRead` of a mapper other than the fixed-ROM mapper answers as the rows given at launch say. -/
theorem mapperRead_givenByRows {s : State} {m : MapperDevice} {ms : MapperState} (h : s.mapper = .custom m ms)
    (addr : Word) :
    GivenByRows (fun r : MapperReadRow => r.ms = ms ∧ r.addr = addr) MapperReadRow.value m.reads
      (Config.mapperRead m.id ms addr) (s.mapperRead addr) := by
  rw [State.mapperRead, h]
  exact rowOr_givenByRows ..

/-- `cpuWrite` of such a mapper changes its state as the rows given at launch say, and keeps its functions. -/
theorem mapperWrite_givenByRows {s : State} {m : MapperDevice} {ms : MapperState} (h : s.mapper = .custom m ms)
    (addr : Word) (v : Byte) :
    ∃ ms', s.mapperWrite addr v = .custom m ms' ∧
      GivenByRows (fun r : MapperWriteRow => r.ms = ms ∧ r.addr = addr ∧ r.value = v) MapperWriteRow.next m.writes
        (Config.mapperWrite m.id ms addr v) ms' := by
  rw [State.mapperWrite, h]
  exact ⟨_, rfl, rowOr_givenByRows ..⟩

end Machine

end Sys2Proof
end

