-- ==== Sys2Proof/Laws/Exec.lean ====
section
/-!
SUPPORT. What `exec` does by mnemonic (R98), and what the shared shapes of the instructions do: each said once.
-/

namespace Sys2Proof.Machine

/-- The behaviour of each mnemonic, as R98 dispatches. -/
def execByMnemonic (i : Instr) (s : State) : Outcome :=
  match i.mnemonic with
  | .lda => execRead i loadA s
  | .ldx => execRead i loadX s
  | .ldy => execRead i loadY s
  | .sta => execStore i State.a s
  | .stx => execStore i State.x s
  | .sty => execStore i State.y s
  | .tax => execImplied i transferAX s
  | .tay => execImplied i transferAY s
  | .txa => execImplied i transferXA s
  | .tya => execImplied i transferYA s
  | .tsx => execImplied i transferSX s
  | .txs => execImplied i transferXS s
  | .adc => execRead i addM s
  | .sbc => execRead i subtractM s
  | .and => execRead i andM s
  | .ora => execRead i orM s
  | .eor => execRead i xorM s
  | .cmp => execRead i compareA s
  | .cpx => execRead i compareX s
  | .cpy => execRead i compareY s
  | .bit => execRead i bitTest s
  | .inc => execModify i increment s
  | .dec => execModify i decrement s
  | .inx => execImplied i incrementX s
  | .iny => execImplied i incrementY s
  | .dex => execImplied i decrementX s
  | .dey => execImplied i decrementY s
  | .asl => if i.operand.mode = .acc then execAccumulator i shiftLeft s else execModify i shiftLeft s
  | .lsr => if i.operand.mode = .acc then execAccumulator i shiftRight s else execModify i shiftRight s
  | .rol => if i.operand.mode = .acc then execAccumulator i rotateLeft s else execModify i rotateLeft s
  | .ror => if i.operand.mode = .acc then execAccumulator i rotateRight s else execModify i rotateRight s
  | .jmp => execAddress i jumpTo s
  | .jsr => execAddress i callTo s
  | .rts => execImplied i returnFromCall s
  | .bcc => execBranch i (getFlag s.p .c == false) s
  | .bcs => execBranch i (getFlag s.p .c == true) s
  | .beq => execBranch i (getFlag s.p .z == true) s
  | .bne => execBranch i (getFlag s.p .z == false) s
  | .bmi => execBranch i (getFlag s.p .n == true) s
  | .bpl => execBranch i (getFlag s.p .n == false) s
  | .bvc => execBranch i (getFlag s.p .v == false) s
  | .bvs => execBranch i (getFlag s.p .v == true) s
  | .pha => execImplied i pushA s
  | .php => execImplied i pushP s
  | .pla => execImplied i pullA s
  | .plp => execImplied i pullP s
  | .clc => execImplied i (fun t => t.putFlag .c false) s
  | .sec => execImplied i (fun t => t.putFlag .c true) s
  | .cli => execImplied i (fun t => t.putFlag .i false) s
  | .sei => execImplied i (fun t => t.putFlag .i true) s
  | .cld => execImplied i (fun t => t.putFlag .d false) s
  | .sed => execImplied i (fun t => t.putFlag .d true) s
  | .clv => execImplied i (fun t => t.putFlag .v false) s
  | .nop => execImplied i (fun t => t) s
  | .brk => execImplied i breakNow s
  | .rti => execImplied i returnFromInterrupt s
  | .unknown => execImplied i (fun t => t) s

/-- Instructions with one mnemonic share one behaviour (R64). -/
theorem exec_eq (i : Instr) (s : State) : exec i s = execByMnemonic i s := by cases i <;> rfl

/-! ### The resolver and the operand read -/

/-- The resolver touches the recorder and, by a pointer in the register window, the device; nothing else (R84). -/
theorem resolve_state (o : Operand) (s : State) :
    ∃ d l k, (resolve o s).state = { s with dev := d, log := l, k := k } := by
  cases o <;> exact ⟨_, _, _, rfl⟩

/-- Two pointer reads in page zero: RAM, so no device. -/
theorem readWord_zeroPage (s : State) (lo hi : Byte) :
    readWord s (zeroPage lo) (zeroPage hi) =
      (joinBytes (memPeek s (zeroPage hi)) (memPeek s (zeroPage lo)),
        { s with
          log := s.log ++
            [{ kind := .read, addr := zeroPage lo, value := memPeek s (zeroPage lo), offset := s.k },
             { kind := .read, addr := zeroPage hi, value := memPeek s (zeroPage hi), offset := s.k + 1 }]
          k := s.k + 2 }) := by
  simp only [readWord, memRead_memory s (.inl (zeroPage_lt lo))]
  rw [memRead_memory _ (.inl (zeroPage_lt hi))]
  simp only [List.append_assoc, List.cons_append, List.nil_append]
  rfl

/-- For every mode but IND the resolver touches the recorder only. -/
theorem resolve_state_log (o : Operand) (s : State) (h : o.mode ≠ .ind) :
    ∃ l k, (resolve o s).state = { s with log := l, k := k } := by
  cases o with
  | ind a => exact absurd rfl h
  | izx b => exact ⟨_, _, congrArg Prod.snd (readWord_zeroPage s (b + s.x) (b + s.x + 1))⟩
  | izy b => exact ⟨_, _, congrArg Prod.snd (readWord_zeroPage s b (b + 1))⟩
  | _ => exact ⟨_, _, rfl⟩

/-- Reading an operand touches the recorder and possibly a device; nothing else. -/
theorem readOperand_state (o : Operand) (s : State) :
    ∃ d l k, (readOperand o s).2.2 = { s with dev := d, log := l, k := k } := by
  cases o with
  | imm v => exact ⟨_, _, _, rfl⟩
  | _ => exact ⟨_, _, _, rfl⟩

/-- Reading an operand keeps every byte of memory. -/
theorem readOperand_keepsMemory (o : Operand) (s : State) : KeepsMemory s (readOperand o s).2.2 := by
  obtain ⟨d, l, k, h⟩ := readOperand_state o s
  rw [h]
  exact fun _ hb => memPeek_congr rfl rfl rfl rfl rfl (.inr hb)

/-! ### The shapes -/

/-- Without a branch taken an instruction pays its row and the page cross (R99). -/
theorem complete_untaken (c : Configuration) (i : Instr) (crossed : Bool) (s : State) :
    complete c i crossed false s = .next (s.addCycles (costOf i crossed)) := by
  simp only [complete, InstructionDef.cost, Bool.false_eq_true, and_false, if_false, Nat.add_zero]
  rfl

/-- An instruction that reads its operand completes (R98, R99). -/
theorem execRead_eq (i : Instr) (f : Byte → State → State) (s : State) :
    execRead i f s = .next ((f (readOperand i.operand s).1 (readOperand i.operand s).2.2).addCycles
      (costOf i (readOperand i.operand s).2.1)) := complete_untaken ..

theorem execStore_eq (i : Instr) (src : State → Byte) (s : State) :
    execStore i src s = .next ((memWrite (resolve i.operand s).state (resolve i.operand s).addr
      (src (resolve i.operand s).state)).addCycles (costOf i (resolve i.operand s).crossed)) := complete_untaken ..

theorem execModify_eq (i : Instr) (f : Byte → State → Byte × State) (s : State) :
    execModify i f s =
      let r := resolve i.operand s
      let m := memRead r.state r.addr
      .next ((memWrite (f m.1 m.2).2 r.addr (f m.1 m.2).1).addCycles (costOf i r.crossed)) := complete_untaken ..

theorem execImplied_eq (i : Instr) (f : State → State) (s : State) :
    execImplied i f s = .next ((f s).addCycles (costOf i false)) := complete_untaken ..

theorem execAccumulator_eq (i : Instr) (f : Byte → State → Byte × State) (s : State) :
    execAccumulator i f s = .next (((f s.a s).2.setA (f s.a s).1).addCycles (costOf i false)) := complete_untaken ..

theorem execAddress_eq (i : Instr) (f : Word → State → State) (s : State) :
    execAddress i f s = .next ((f (resolve i.operand s).addr (resolve i.operand s).state).addCycles
      (costOf i (resolve i.operand s).crossed)) := complete_untaken ..

/-! ### The one behaviour of a mnemonic (R64) -/

/-- In every mode but IMM, whose byte `exec` has been given, `exec` is `execute` on the resolved operand. -/
theorem exec_eq_execute (i : Instr) (s : State) (h : i.operand.mode ≠ .imm) :
    exec i s =
      complete s.config i (resolve i.operand s).crossed
        (execute i.mnemonic i.operand.mode (resolve i.operand s)).2
        (execute i.mnemonic i.operand.mode (resolve i.operand s)).1 := by
  cases i <;> first | rfl | exact absurd rfl h

/-- The mode matters to a behaviour only where it is ACC, the cross bit not at all. -/
theorem execute_mode (m : Mnemonic) {mode mode' : Mode} (r : Resolved) (crossed : Bool) (h : mode ≠ .acc)
    (h' : mode' ≠ .acc) : execute m mode r = execute m mode' { r with crossed := crossed } := by
  cases m <;> simp only [execute, modifyIn, h, h', if_false] <;> rfl

end Sys2Proof.Machine
end

