-- ==== Sys2Proof/Laws/PerInstr.lean ====
section
/-!
SUPPORT. Statements proved once per constructor of `Instr`.
-/

namespace Sys2Proof.Laws

/-- The words of an instruction are as many bytes as its mode says (R61), and the opcode byte alone tells how many
(R69). -/
def EncodedLength.Statement (i : Instr) : Prop :=
  i.WellFormed → (encode i).length = i.length ∧ lengthOf i.opcode = i.length

theorem EncodedLength.ldaImm (v : Byte) : EncodedLength.Statement (.ldaImm v) :=
  fun _ => ⟨rfl, (rfl : lengthOf 0xA9 = 2)⟩
theorem EncodedLength.ldaZp (b : Byte) : EncodedLength.Statement (.ldaZp b) :=
  fun _ => ⟨rfl, (rfl : lengthOf 0xA5 = 2)⟩
theorem EncodedLength.ldaZpx (b : Byte) : EncodedLength.Statement (.ldaZpx b) :=
  fun _ => ⟨rfl, (rfl : lengthOf 0xB5 = 2)⟩
theorem EncodedLength.ldaAbs (a : Word) : EncodedLength.Statement (.ldaAbs a) :=
  fun _ => ⟨rfl, (rfl : lengthOf 0xAD = 3)⟩
theorem EncodedLength.ldaAbx (a : Word) : EncodedLength.Statement (.ldaAbx a) :=
  fun _ => ⟨rfl, (rfl : lengthOf 0xBD = 3)⟩
theorem EncodedLength.ldaAby (a : Word) : EncodedLength.Statement (.ldaAby a) :=
  fun _ => ⟨rfl, (rfl : lengthOf 0xB9 = 3)⟩
theorem EncodedLength.ldaIzx (b : Byte) : EncodedLength.Statement (.ldaIzx b) :=
  fun _ => ⟨rfl, (rfl : lengthOf 0xA1 = 2)⟩
theorem EncodedLength.ldaIzy (b : Byte) : EncodedLength.Statement (.ldaIzy b) :=
  fun _ => ⟨rfl, (rfl : lengthOf 0xB1 = 2)⟩
theorem EncodedLength.ldxImm (v : Byte) : EncodedLength.Statement (.ldxImm v) :=
  fun _ => ⟨rfl, (rfl : lengthOf 0xA2 = 2)⟩
theorem EncodedLength.ldxZp (b : Byte) : EncodedLength.Statement (.ldxZp b) :=
  fun _ => ⟨rfl, (rfl : lengthOf 0xA6 = 2)⟩
theorem EncodedLength.ldxZpy (b : Byte) : EncodedLength.Statement (.ldxZpy b) :=
  fun _ => ⟨rfl, (rfl : lengthOf 0xB6 = 2)⟩
theorem EncodedLength.ldxAbs (a : Word) : EncodedLength.Statement (.ldxAbs a) :=
  fun _ => ⟨rfl, (rfl : lengthOf 0xAE = 3)⟩
theorem EncodedLength.ldxAby (a : Word) : EncodedLength.Statement (.ldxAby a) :=
  fun _ => ⟨rfl, (rfl : lengthOf 0xBE = 3)⟩
theorem EncodedLength.ldyImm (v : Byte) : EncodedLength.Statement (.ldyImm v) :=
  fun _ => ⟨rfl, (rfl : lengthOf 0xA0 = 2)⟩
theorem EncodedLength.ldyZp (b : Byte) : EncodedLength.Statement (.ldyZp b) :=
  fun _ => ⟨rfl, (rfl : lengthOf 0xA4 = 2)⟩
theorem EncodedLength.ldyZpx (b : Byte) : EncodedLength.Statement (.ldyZpx b) :=
  fun _ => ⟨rfl, (rfl : lengthOf 0xB4 = 2)⟩
theorem EncodedLength.ldyAbs (a : Word) : EncodedLength.Statement (.ldyAbs a) :=
  fun _ => ⟨rfl, (rfl : lengthOf 0xAC = 3)⟩
theorem EncodedLength.ldyAbx (a : Word) : EncodedLength.Statement (.ldyAbx a) :=
  fun _ => ⟨rfl, (rfl : lengthOf 0xBC = 3)⟩
theorem EncodedLength.staZp (b : Byte) : EncodedLength.Statement (.staZp b) :=
  fun _ => ⟨rfl, (rfl : lengthOf 0x85 = 2)⟩
theorem EncodedLength.staZpx (b : Byte) : EncodedLength.Statement (.staZpx b) :=
  fun _ => ⟨rfl, (rfl : lengthOf 0x95 = 2)⟩
theorem EncodedLength.staAbs (a : Word) : EncodedLength.Statement (.staAbs a) :=
  fun _ => ⟨rfl, (rfl : lengthOf 0x8D = 3)⟩
theorem EncodedLength.staAbx (a : Word) : EncodedLength.Statement (.staAbx a) :=
  fun _ => ⟨rfl, (rfl : lengthOf 0x9D = 3)⟩
theorem EncodedLength.staAby (a : Word) : EncodedLength.Statement (.staAby a) :=
  fun _ => ⟨rfl, (rfl : lengthOf 0x99 = 3)⟩
theorem EncodedLength.staIzx (b : Byte) : EncodedLength.Statement (.staIzx b) :=
  fun _ => ⟨rfl, (rfl : lengthOf 0x81 = 2)⟩
theorem EncodedLength.staIzy (b : Byte) : EncodedLength.Statement (.staIzy b) :=
  fun _ => ⟨rfl, (rfl : lengthOf 0x91 = 2)⟩
theorem EncodedLength.stxZp (b : Byte) : EncodedLength.Statement (.stxZp b) :=
  fun _ => ⟨rfl, (rfl : lengthOf 0x86 = 2)⟩
theorem EncodedLength.stxZpy (b : Byte) : EncodedLength.Statement (.stxZpy b) :=
  fun _ => ⟨rfl, (rfl : lengthOf 0x96 = 2)⟩
theorem EncodedLength.stxAbs (a : Word) : EncodedLength.Statement (.stxAbs a) :=
  fun _ => ⟨rfl, (rfl : lengthOf 0x8E = 3)⟩
theorem EncodedLength.styZp (b : Byte) : EncodedLength.Statement (.styZp b) :=
  fun _ => ⟨rfl, (rfl : lengthOf 0x84 = 2)⟩
theorem EncodedLength.styZpx (b : Byte) : EncodedLength.Statement (.styZpx b) :=
  fun _ => ⟨rfl, (rfl : lengthOf 0x94 = 2)⟩
theorem EncodedLength.styAbs (a : Word) : EncodedLength.Statement (.styAbs a) :=
  fun _ => ⟨rfl, (rfl : lengthOf 0x8C = 3)⟩
theorem EncodedLength.tax : EncodedLength.Statement (.tax) :=
  fun _ => ⟨rfl, (rfl : lengthOf 0xAA = 1)⟩
theorem EncodedLength.tay : EncodedLength.Statement (.tay) :=
  fun _ => ⟨rfl, (rfl : lengthOf 0xA8 = 1)⟩
theorem EncodedLength.txa : EncodedLength.Statement (.txa) :=
  fun _ => ⟨rfl, (rfl : lengthOf 0x8A = 1)⟩
theorem EncodedLength.tya : EncodedLength.Statement (.tya) :=
  fun _ => ⟨rfl, (rfl : lengthOf 0x98 = 1)⟩
theorem EncodedLength.tsx : EncodedLength.Statement (.tsx) :=
  fun _ => ⟨rfl, (rfl : lengthOf 0xBA = 1)⟩
theorem EncodedLength.txs : EncodedLength.Statement (.txs) :=
  fun _ => ⟨rfl, (rfl : lengthOf 0x9A = 1)⟩
theorem EncodedLength.adcImm (v : Byte) : EncodedLength.Statement (.adcImm v) :=
  fun _ => ⟨rfl, (rfl : lengthOf 0x69 = 2)⟩
theorem EncodedLength.adcZp (b : Byte) : EncodedLength.Statement (.adcZp b) :=
  fun _ => ⟨rfl, (rfl : lengthOf 0x65 = 2)⟩
theorem EncodedLength.adcZpx (b : Byte) : EncodedLength.Statement (.adcZpx b) :=
  fun _ => ⟨rfl, (rfl : lengthOf 0x75 = 2)⟩
theorem EncodedLength.adcAbs (a : Word) : EncodedLength.Statement (.adcAbs a) :=
  fun _ => ⟨rfl, (rfl : lengthOf 0x6D = 3)⟩
theorem EncodedLength.adcAbx (a : Word) : EncodedLength.Statement (.adcAbx a) :=
  fun _ => ⟨rfl, (rfl : lengthOf 0x7D = 3)⟩
theorem EncodedLength.adcAby (a : Word) : EncodedLength.Statement (.adcAby a) :=
  fun _ => ⟨rfl, (rfl : lengthOf 0x79 = 3)⟩
theorem EncodedLength.adcIzx (b : Byte) : EncodedLength.Statement (.adcIzx b) :=
  fun _ => ⟨rfl, (rfl : lengthOf 0x61 = 2)⟩
theorem EncodedLength.adcIzy (b : Byte) : EncodedLength.Statement (.adcIzy b) :=
  fun _ => ⟨rfl, (rfl : lengthOf 0x71 = 2)⟩
theorem EncodedLength.sbcImm (v : Byte) : EncodedLength.Statement (.sbcImm v) :=
  fun _ => ⟨rfl, (rfl : lengthOf 0xE9 = 2)⟩
theorem EncodedLength.sbcZp (b : Byte) : EncodedLength.Statement (.sbcZp b) :=
  fun _ => ⟨rfl, (rfl : lengthOf 0xE5 = 2)⟩
theorem EncodedLength.sbcZpx (b : Byte) : EncodedLength.Statement (.sbcZpx b) :=
  fun _ => ⟨rfl, (rfl : lengthOf 0xF5 = 2)⟩
theorem EncodedLength.sbcAbs (a : Word) : EncodedLength.Statement (.sbcAbs a) :=
  fun _ => ⟨rfl, (rfl : lengthOf 0xED = 3)⟩
theorem EncodedLength.sbcAbx (a : Word) : EncodedLength.Statement (.sbcAbx a) :=
  fun _ => ⟨rfl, (rfl : lengthOf 0xFD = 3)⟩
theorem EncodedLength.sbcAby (a : Word) : EncodedLength.Statement (.sbcAby a) :=
  fun _ => ⟨rfl, (rfl : lengthOf 0xF9 = 3)⟩
theorem EncodedLength.sbcIzx (b : Byte) : EncodedLength.Statement (.sbcIzx b) :=
  fun _ => ⟨rfl, (rfl : lengthOf 0xE1 = 2)⟩
theorem EncodedLength.sbcIzy (b : Byte) : EncodedLength.Statement (.sbcIzy b) :=
  fun _ => ⟨rfl, (rfl : lengthOf 0xF1 = 2)⟩
theorem EncodedLength.andImm (v : Byte) : EncodedLength.Statement (.andImm v) :=
  fun _ => ⟨rfl, (rfl : lengthOf 0x29 = 2)⟩
theorem EncodedLength.andZp (b : Byte) : EncodedLength.Statement (.andZp b) :=
  fun _ => ⟨rfl, (rfl : lengthOf 0x25 = 2)⟩
theorem EncodedLength.andZpx (b : Byte) : EncodedLength.Statement (.andZpx b) :=
  fun _ => ⟨rfl, (rfl : lengthOf 0x35 = 2)⟩
theorem EncodedLength.andAbs (a : Word) : EncodedLength.Statement (.andAbs a) :=
  fun _ => ⟨rfl, (rfl : lengthOf 0x2D = 3)⟩
theorem EncodedLength.andAbx (a : Word) : EncodedLength.Statement (.andAbx a) :=
  fun _ => ⟨rfl, (rfl : lengthOf 0x3D = 3)⟩
theorem EncodedLength.andAby (a : Word) : EncodedLength.Statement (.andAby a) :=
  fun _ => ⟨rfl, (rfl : lengthOf 0x39 = 3)⟩
theorem EncodedLength.andIzx (b : Byte) : EncodedLength.Statement (.andIzx b) :=
  fun _ => ⟨rfl, (rfl : lengthOf 0x21 = 2)⟩
theorem EncodedLength.andIzy (b : Byte) : EncodedLength.Statement (.andIzy b) :=
  fun _ => ⟨rfl, (rfl : lengthOf 0x31 = 2)⟩
theorem EncodedLength.oraImm (v : Byte) : EncodedLength.Statement (.oraImm v) :=
  fun _ => ⟨rfl, (rfl : lengthOf 0x09 = 2)⟩
theorem EncodedLength.oraZp (b : Byte) : EncodedLength.Statement (.oraZp b) :=
  fun _ => ⟨rfl, (rfl : lengthOf 0x05 = 2)⟩
theorem EncodedLength.oraZpx (b : Byte) : EncodedLength.Statement (.oraZpx b) :=
  fun _ => ⟨rfl, (rfl : lengthOf 0x15 = 2)⟩
theorem EncodedLength.oraAbs (a : Word) : EncodedLength.Statement (.oraAbs a) :=
  fun _ => ⟨rfl, (rfl : lengthOf 0x0D = 3)⟩
theorem EncodedLength.oraAbx (a : Word) : EncodedLength.Statement (.oraAbx a) :=
  fun _ => ⟨rfl, (rfl : lengthOf 0x1D = 3)⟩
theorem EncodedLength.oraAby (a : Word) : EncodedLength.Statement (.oraAby a) :=
  fun _ => ⟨rfl, (rfl : lengthOf 0x19 = 3)⟩
theorem EncodedLength.oraIzx (b : Byte) : EncodedLength.Statement (.oraIzx b) :=
  fun _ => ⟨rfl, (rfl : lengthOf 0x01 = 2)⟩
theorem EncodedLength.oraIzy (b : Byte) : EncodedLength.Statement (.oraIzy b) :=
  fun _ => ⟨rfl, (rfl : lengthOf 0x11 = 2)⟩
theorem EncodedLength.eorImm (v : Byte) : EncodedLength.Statement (.eorImm v) :=
  fun _ => ⟨rfl, (rfl : lengthOf 0x49 = 2)⟩
theorem EncodedLength.eorZp (b : Byte) : EncodedLength.Statement (.eorZp b) :=
  fun _ => ⟨rfl, (rfl : lengthOf 0x45 = 2)⟩
theorem EncodedLength.eorZpx (b : Byte) : EncodedLength.Statement (.eorZpx b) :=
  fun _ => ⟨rfl, (rfl : lengthOf 0x55 = 2)⟩
theorem EncodedLength.eorAbs (a : Word) : EncodedLength.Statement (.eorAbs a) :=
  fun _ => ⟨rfl, (rfl : lengthOf 0x4D = 3)⟩
theorem EncodedLength.eorAbx (a : Word) : EncodedLength.Statement (.eorAbx a) :=
  fun _ => ⟨rfl, (rfl : lengthOf 0x5D = 3)⟩
theorem EncodedLength.eorAby (a : Word) : EncodedLength.Statement (.eorAby a) :=
  fun _ => ⟨rfl, (rfl : lengthOf 0x59 = 3)⟩
theorem EncodedLength.eorIzx (b : Byte) : EncodedLength.Statement (.eorIzx b) :=
  fun _ => ⟨rfl, (rfl : lengthOf 0x41 = 2)⟩
theorem EncodedLength.eorIzy (b : Byte) : EncodedLength.Statement (.eorIzy b) :=
  fun _ => ⟨rfl, (rfl : lengthOf 0x51 = 2)⟩
theorem EncodedLength.cmpImm (v : Byte) : EncodedLength.Statement (.cmpImm v) :=
  fun _ => ⟨rfl, (rfl : lengthOf 0xC9 = 2)⟩
theorem EncodedLength.cmpZp (b : Byte) : EncodedLength.Statement (.cmpZp b) :=
  fun _ => ⟨rfl, (rfl : lengthOf 0xC5 = 2)⟩
theorem EncodedLength.cmpZpx (b : Byte) : EncodedLength.Statement (.cmpZpx b) :=
  fun _ => ⟨rfl, (rfl : lengthOf 0xD5 = 2)⟩
theorem EncodedLength.cmpAbs (a : Word) : EncodedLength.Statement (.cmpAbs a) :=
  fun _ => ⟨rfl, (rfl : lengthOf 0xCD = 3)⟩
theorem EncodedLength.cmpAbx (a : Word) : EncodedLength.Statement (.cmpAbx a) :=
  fun _ => ⟨rfl, (rfl : lengthOf 0xDD = 3)⟩
theorem EncodedLength.cmpAby (a : Word) : EncodedLength.Statement (.cmpAby a) :=
  fun _ => ⟨rfl, (rfl : lengthOf 0xD9 = 3)⟩
theorem EncodedLength.cmpIzx (b : Byte) : EncodedLength.Statement (.cmpIzx b) :=
  fun _ => ⟨rfl, (rfl : lengthOf 0xC1 = 2)⟩
theorem EncodedLength.cmpIzy (b : Byte) : EncodedLength.Statement (.cmpIzy b) :=
  fun _ => ⟨rfl, (rfl : lengthOf 0xD1 = 2)⟩
theorem EncodedLength.cpxImm (v : Byte) : EncodedLength.Statement (.cpxImm v) :=
  fun _ => ⟨rfl, (rfl : lengthOf 0xE0 = 2)⟩
theorem EncodedLength.cpxZp (b : Byte) : EncodedLength.Statement (.cpxZp b) :=
  fun _ => ⟨rfl, (rfl : lengthOf 0xE4 = 2)⟩
theorem EncodedLength.cpxAbs (a : Word) : EncodedLength.Statement (.cpxAbs a) :=
  fun _ => ⟨rfl, (rfl : lengthOf 0xEC = 3)⟩
theorem EncodedLength.cpyImm (v : Byte) : EncodedLength.Statement (.cpyImm v) :=
  fun _ => ⟨rfl, (rfl : lengthOf 0xC0 = 2)⟩
theorem EncodedLength.cpyZp (b : Byte) : EncodedLength.Statement (.cpyZp b) :=
  fun _ => ⟨rfl, (rfl : lengthOf 0xC4 = 2)⟩
theorem EncodedLength.cpyAbs (a : Word) : EncodedLength.Statement (.cpyAbs a) :=
  fun _ => ⟨rfl, (rfl : lengthOf 0xCC = 3)⟩
theorem EncodedLength.bitZp (b : Byte) : EncodedLength.Statement (.bitZp b) :=
  fun _ => ⟨rfl, (rfl : lengthOf 0x24 = 2)⟩
theorem EncodedLength.bitAbs (a : Word) : EncodedLength.Statement (.bitAbs a) :=
  fun _ => ⟨rfl, (rfl : lengthOf 0x2C = 3)⟩
theorem EncodedLength.incZp (b : Byte) : EncodedLength.Statement (.incZp b) :=
  fun _ => ⟨rfl, (rfl : lengthOf 0xE6 = 2)⟩
theorem EncodedLength.incZpx (b : Byte) : EncodedLength.Statement (.incZpx b) :=
  fun _ => ⟨rfl, (rfl : lengthOf 0xF6 = 2)⟩
theorem EncodedLength.incAbs (a : Word) : EncodedLength.Statement (.incAbs a) :=
  fun _ => ⟨rfl, (rfl : lengthOf 0xEE = 3)⟩
theorem EncodedLength.incAbx (a : Word) : EncodedLength.Statement (.incAbx a) :=
  fun _ => ⟨rfl, (rfl : lengthOf 0xFE = 3)⟩
theorem EncodedLength.decZp (b : Byte) : EncodedLength.Statement (.decZp b) :=
  fun _ => ⟨rfl, (rfl : lengthOf 0xC6 = 2)⟩
theorem EncodedLength.decZpx (b : Byte) : EncodedLength.Statement (.decZpx b) :=
  fun _ => ⟨rfl, (rfl : lengthOf 0xD6 = 2)⟩
theorem EncodedLength.decAbs (a : Word) : EncodedLength.Statement (.decAbs a) :=
  fun _ => ⟨rfl, (rfl : lengthOf 0xCE = 3)⟩
theorem EncodedLength.decAbx (a : Word) : EncodedLength.Statement (.decAbx a) :=
  fun _ => ⟨rfl, (rfl : lengthOf 0xDE = 3)⟩
theorem EncodedLength.inx : EncodedLength.Statement (.inx) :=
  fun _ => ⟨rfl, (rfl : lengthOf 0xE8 = 1)⟩
theorem EncodedLength.iny : EncodedLength.Statement (.iny) :=
  fun _ => ⟨rfl, (rfl : lengthOf 0xC8 = 1)⟩
theorem EncodedLength.dex : EncodedLength.Statement (.dex) :=
  fun _ => ⟨rfl, (rfl : lengthOf 0xCA = 1)⟩
theorem EncodedLength.dey : EncodedLength.Statement (.dey) :=
  fun _ => ⟨rfl, (rfl : lengthOf 0x88 = 1)⟩
theorem EncodedLength.aslAcc : EncodedLength.Statement (.aslAcc) :=
  fun _ => ⟨rfl, (rfl : lengthOf 0x0A = 1)⟩
theorem EncodedLength.aslZp (b : Byte) : EncodedLength.Statement (.aslZp b) :=
  fun _ => ⟨rfl, (rfl : lengthOf 0x06 = 2)⟩
theorem EncodedLength.aslZpx (b : Byte) : EncodedLength.Statement (.aslZpx b) :=
  fun _ => ⟨rfl, (rfl : lengthOf 0x16 = 2)⟩
theorem EncodedLength.aslAbs (a : Word) : EncodedLength.Statement (.aslAbs a) :=
  fun _ => ⟨rfl, (rfl : lengthOf 0x0E = 3)⟩
theorem EncodedLength.aslAbx (a : Word) : EncodedLength.Statement (.aslAbx a) :=
  fun _ => ⟨rfl, (rfl : lengthOf 0x1E = 3)⟩
theorem EncodedLength.lsrAcc : EncodedLength.Statement (.lsrAcc) :=
  fun _ => ⟨rfl, (rfl : lengthOf 0x4A = 1)⟩
theorem EncodedLength.lsrZp (b : Byte) : EncodedLength.Statement (.lsrZp b) :=
  fun _ => ⟨rfl, (rfl : lengthOf 0x46 = 2)⟩
theorem EncodedLength.lsrZpx (b : Byte) : EncodedLength.Statement (.lsrZpx b) :=
  fun _ => ⟨rfl, (rfl : lengthOf 0x56 = 2)⟩
theorem EncodedLength.lsrAbs (a : Word) : EncodedLength.Statement (.lsrAbs a) :=
  fun _ => ⟨rfl, (rfl : lengthOf 0x4E = 3)⟩
theorem EncodedLength.lsrAbx (a : Word) : EncodedLength.Statement (.lsrAbx a) :=
  fun _ => ⟨rfl, (rfl : lengthOf 0x5E = 3)⟩
theorem EncodedLength.rolAcc : EncodedLength.Statement (.rolAcc) :=
  fun _ => ⟨rfl, (rfl : lengthOf 0x2A = 1)⟩
theorem EncodedLength.rolZp (b : Byte) : EncodedLength.Statement (.rolZp b) :=
  fun _ => ⟨rfl, (rfl : lengthOf 0x26 = 2)⟩
theorem EncodedLength.rolZpx (b : Byte) : EncodedLength.Statement (.rolZpx b) :=
  fun _ => ⟨rfl, (rfl : lengthOf 0x36 = 2)⟩
theorem EncodedLength.rolAbs (a : Word) : EncodedLength.Statement (.rolAbs a) :=
  fun _ => ⟨rfl, (rfl : lengthOf 0x2E = 3)⟩
theorem EncodedLength.rolAbx (a : Word) : EncodedLength.Statement (.rolAbx a) :=
  fun _ => ⟨rfl, (rfl : lengthOf 0x3E = 3)⟩
theorem EncodedLength.rorAcc : EncodedLength.Statement (.rorAcc) :=
  fun _ => ⟨rfl, (rfl : lengthOf 0x6A = 1)⟩
theorem EncodedLength.rorZp (b : Byte) : EncodedLength.Statement (.rorZp b) :=
  fun _ => ⟨rfl, (rfl : lengthOf 0x66 = 2)⟩
theorem EncodedLength.rorZpx (b : Byte) : EncodedLength.Statement (.rorZpx b) :=
  fun _ => ⟨rfl, (rfl : lengthOf 0x76 = 2)⟩
theorem EncodedLength.rorAbs (a : Word) : EncodedLength.Statement (.rorAbs a) :=
  fun _ => ⟨rfl, (rfl : lengthOf 0x6E = 3)⟩
theorem EncodedLength.rorAbx (a : Word) : EncodedLength.Statement (.rorAbx a) :=
  fun _ => ⟨rfl, (rfl : lengthOf 0x7E = 3)⟩
theorem EncodedLength.jmpAbs (a : Word) : EncodedLength.Statement (.jmpAbs a) :=
  fun _ => ⟨rfl, (rfl : lengthOf 0x4C = 3)⟩
theorem EncodedLength.jmpInd (a : Word) : EncodedLength.Statement (.jmpInd a) :=
  fun _ => ⟨rfl, (rfl : lengthOf 0x6C = 3)⟩
theorem EncodedLength.jsr (a : Word) : EncodedLength.Statement (.jsr a) :=
  fun _ => ⟨rfl, (rfl : lengthOf 0x20 = 3)⟩
theorem EncodedLength.rts : EncodedLength.Statement (.rts) :=
  fun _ => ⟨rfl, (rfl : lengthOf 0x60 = 1)⟩
theorem EncodedLength.bcc (d : Byte) : EncodedLength.Statement (.bcc d) :=
  fun _ => ⟨rfl, (rfl : lengthOf 0x90 = 2)⟩
theorem EncodedLength.bcs (d : Byte) : EncodedLength.Statement (.bcs d) :=
  fun _ => ⟨rfl, (rfl : lengthOf 0xB0 = 2)⟩
theorem EncodedLength.beq (d : Byte) : EncodedLength.Statement (.beq d) :=
  fun _ => ⟨rfl, (rfl : lengthOf 0xF0 = 2)⟩
theorem EncodedLength.bne (d : Byte) : EncodedLength.Statement (.bne d) :=
  fun _ => ⟨rfl, (rfl : lengthOf 0xD0 = 2)⟩
theorem EncodedLength.bmi (d : Byte) : EncodedLength.Statement (.bmi d) :=
  fun _ => ⟨rfl, (rfl : lengthOf 0x30 = 2)⟩
theorem EncodedLength.bpl (d : Byte) : EncodedLength.Statement (.bpl d) :=
  fun _ => ⟨rfl, (rfl : lengthOf 0x10 = 2)⟩
theorem EncodedLength.bvc (d : Byte) : EncodedLength.Statement (.bvc d) :=
  fun _ => ⟨rfl, (rfl : lengthOf 0x50 = 2)⟩
theorem EncodedLength.bvs (d : Byte) : EncodedLength.Statement (.bvs d) :=
  fun _ => ⟨rfl, (rfl : lengthOf 0x70 = 2)⟩
theorem EncodedLength.pha : EncodedLength.Statement (.pha) :=
  fun _ => ⟨rfl, (rfl : lengthOf 0x48 = 1)⟩
theorem EncodedLength.php : EncodedLength.Statement (.php) :=
  fun _ => ⟨rfl, (rfl : lengthOf 0x08 = 1)⟩
theorem EncodedLength.pla : EncodedLength.Statement (.pla) :=
  fun _ => ⟨rfl, (rfl : lengthOf 0x68 = 1)⟩
theorem EncodedLength.plp : EncodedLength.Statement (.plp) :=
  fun _ => ⟨rfl, (rfl : lengthOf 0x28 = 1)⟩
theorem EncodedLength.clc : EncodedLength.Statement (.clc) :=
  fun _ => ⟨rfl, (rfl : lengthOf 0x18 = 1)⟩
theorem EncodedLength.sec : EncodedLength.Statement (.sec) :=
  fun _ => ⟨rfl, (rfl : lengthOf 0x38 = 1)⟩
theorem EncodedLength.cli : EncodedLength.Statement (.cli) :=
  fun _ => ⟨rfl, (rfl : lengthOf 0x58 = 1)⟩
theorem EncodedLength.sei : EncodedLength.Statement (.sei) :=
  fun _ => ⟨rfl, (rfl : lengthOf 0x78 = 1)⟩
theorem EncodedLength.cld : EncodedLength.Statement (.cld) :=
  fun _ => ⟨rfl, (rfl : lengthOf 0xD8 = 1)⟩
theorem EncodedLength.sed : EncodedLength.Statement (.sed) :=
  fun _ => ⟨rfl, (rfl : lengthOf 0xF8 = 1)⟩
theorem EncodedLength.clv : EncodedLength.Statement (.clv) :=
  fun _ => ⟨rfl, (rfl : lengthOf 0xB8 = 1)⟩
theorem EncodedLength.nop : EncodedLength.Statement (.nop) :=
  fun _ => ⟨rfl, (rfl : lengthOf 0xEA = 1)⟩
theorem EncodedLength.brk : EncodedLength.Statement (.brk) :=
  fun _ => ⟨rfl, (rfl : lengthOf 0x00 = 1)⟩
theorem EncodedLength.rti : EncodedLength.Statement (.rti) :=
  fun _ => ⟨rfl, (rfl : lengthOf 0x40 = 1)⟩

/-- Every listed unknown byte fixes length 1 (R67). -/
theorem lengthOf_unknown : unknownOpcodes.all (fun op => lengthOf op == 1) = true := by decide

theorem EncodedLength.unknown (op : Byte) : EncodedLength.Statement (.unknown op) := by
  intro h
  have hm : op ∈ unknownOpcodes := List.contains_iff_mem.mp h
  exact ⟨rfl, beq_iff_eq.mp (List.all_eq_true.mp lengthOf_unknown op hm)⟩

end Sys2Proof.Laws
end

