-- ==== Sys2Proof/Laws/Step.lean ====
section
/-!
SUPPORT. The stages of a step around the instruction: what the fetch of operand bytes reads for each length, what it and
the resolver leave, a step taken apart into its stages, and the one equation that says what a step does on either way
(`step_eq`).
-/

namespace Sys2Proof.Machine

/-- A one-byte instruction fetches nothing more (R83). -/
theorem fetchBytes_one (s : State) : fetchBytes 1 s = (0, 0, s) := rfl

/-- A two-byte instruction fetches one operand byte. -/
theorem fetchBytes_two (s : State) : fetchBytes 2 s = ((fetch8 s).1, 0, (fetch8 s).2) := rfl

/-- A three-byte instruction fetches two. -/
theorem fetchBytes_three (s : State) :
    fetchBytes 3 s = ((fetch8 s).1, (fetch8 (fetch8 s).2).1, (fetch8 (fetch8 s).2).2) := rfl

/-- The operand fetch moves `PC`, the recorder and possibly a device; nothing else. -/
theorem fetchBytes_state (n : Nat) (s : State) :
    ∃ pc d l k, (fetchBytes n s).2.2 = { s with pc := pc, dev := d, log := l, k := k } := by
  unfold fetchBytes
  split
  · exact ⟨_, _, _, _, rfl⟩
  · simp only [fetch8_eq]; exact ⟨_, _, _, _, rfl⟩
  · simp only [fetch8_eq]; exact ⟨_, _, _, _, rfl⟩

theorem fetchOperands_one {op : Byte} (h : lengthOf op = 1) (s : State) : fetchOperands op s = (assemble op 0 0, s) := by
  rw [fetchOperands, h]; rfl

theorem fetchOperands_two {op : Byte} (h : lengthOf op = 2) (s : State) :
    fetchOperands op s = (assemble op (fetch8 s).1 0, (fetch8 s).2) := by
  rw [fetchOperands, h]; rfl

theorem fetchOperands_three {op : Byte} (h : lengthOf op = 3) (s : State) :
    fetchOperands op s = (assemble op (fetch8 s).1 (fetch8 (fetch8 s).2).1, (fetch8 (fetch8 s).2).2) := by
  rw [fetchOperands, h]; rfl

theorem fetchOperands_state (op : Byte) (s : State) :
    ∃ pc d l k, (fetchOperands op s).2 = { s with pc := pc, dev := d, log := l, k := k } :=
  fetchBytes_state (lengthOf op) s

/-- The resolver of a configured row moves `PC`, the recorder and possibly a device; nothing else (R84). -/
theorem resolveMode_state (m : Mode) (s : State) :
    ∃ pc d l k, (resolveMode m s).state = { s with pc := pc, dev := d, log := l, k := k } := by
  unfold resolveMode
  split
  · exact ⟨_, _, _, _, rfl⟩
  · obtain ⟨pc, d, l, k, h⟩ := fetchBytes_state m.length s
    obtain ⟨d', l', k', h'⟩ :=
      resolve_state (m.assembled (fetchBytes m.length s).1 (fetchBytes m.length s).2.1) (fetchBytes m.length s).2.2
    exact ⟨pc, d', l', k', by dsimp only; rw [h', h]⟩

/-- A step on a byte with a row in the configured table runs the row. -/
theorem step_of_row {s : State} {d : InstructionDef} (h : s.config.row (memPeek s s.pc) = some d) :
    step s = .next (endStep (memPeek s s.pc) d.mnemonic (runDefinition d (fetch8 (beginStep s)).2)) := by
  have e : (fetch8 (beginStep s)).1 = memPeek s s.pc := rfl
  unfold step
  dsimp only
  rw [e, h]

/-- A step on any other byte is its stages: where the instruction fetched answers `u`, the step answers `u` with the
record. -/
theorem step_of_exec {s u : State} (hr : s.config.row (memPeek s s.pc) = none)
    (h : exec (fetchOperands (memPeek s s.pc) (fetch8 (beginStep s)).2).1
      (fetchOperands (memPeek s s.pc) (fetch8 (beginStep s)).2).2 = .next u) :
    step s = .next (endStep (memPeek s s.pc)
      (fetchOperands (memPeek s s.pc) (fetch8 (beginStep s)).2).1.mnemonic u) := by
  have e : (fetch8 (beginStep s)).1 = memPeek s s.pc := rfl
  unfold step
  dsimp only
  rw [e, hr]
  dsimp only
  rw [h]

/-! ### The two ways of a step agree -/

/-- Only the behaviours that read one byte have the mode IMM in the default table (R66, R72). -/
theorem imm_readsOperand (i : Instr) (h : i.operand.mode = .imm) :
    ∃ f, (∀ s, exec i s = execRead i f s) ∧ ∀ r, execute i.mnemonic .imm r = (readAt f r, false) := by
  cases i <;> first | exact absurd h (by decide) | (cases h; done) | exact ⟨_, fun _ => rfl, fun _ => rfl⟩

/-- An instruction of the default table, fetched and run, does what its definition does (R64, R84, R98, R99). -/
theorem exec_fetched (op : Byte) (s : State) :
    exec (fetchOperands op s).1 (fetchOperands op s).2 = .next (runDefinition (defaultDefinition op) s) := by
  obtain ⟨b1, b2, t, hf⟩ : ∃ b1 b2 t, fetchBytes (lengthOf op) s = (b1, b2, t) := ⟨_, _, _, rfl⟩
  have hform := assemble_form op b1 b2
  have hop : (assemble op b1 b2).operand = (defaultDefinition op).mode.assembled b1 b2 := congrArg Form.operand hform
  have hmode : (assemble op b1 b2).operand.mode = (defaultDefinition op).mode := by
    rw [hop]; cases (defaultDefinition op).mode <;> rfl
  have hname : (assemble op b1 b2).mnemonic = (defaultDefinition op).mnemonic := (congrArg Form.mnemonic hform).trans rfl
  have hcost (n : Nat) (c x : Bool) : (assemble op b1 b2).form.definition.cost n c x = (defaultDefinition op).cost n c x := by
    unfold InstructionDef.cost Form.definition; rw [hform]; rfl
  have hconfig : t.config = s.config := by
    obtain ⟨_, _, _, _, h⟩ := fetchBytes_state (lengthOf op) s
    rw [hf] at h; rw [show t = _ from h]
  have hfetch : fetchOperands op s = (assemble op b1 b2, t) := by rw [fetchOperands, hf]
  rw [hfetch]
  by_cases him : (defaultDefinition op).mode = .imm
  · obtain ⟨f, he, hx⟩ := imm_readsOperand (assemble op b1 b2) (hmode.trans him)
    have hlen : lengthOf op = 2 := by rw [show lengthOf op = (defaultDefinition op).mode.length from rfl, him]; rfl
    rw [hlen, fetchBytes_two] at hf
    obtain ⟨rfl, -, rfl⟩ : (fetch8 s).1 = b1 ∧ 0 = b2 ∧ (fetch8 s).2 = t := by simpa using hf
    rw [he, runDefinition, him, ← hname, hx]
    simp only [execRead, complete, hop, him, hcost]
    rfl
  · have hres : resolveMode (defaultDefinition op).mode s = resolve (assemble op b1 b2).operand t := by
      rw [resolveMode, if_neg him, show (defaultDefinition op).mode.length = lengthOf op from rfl, hf, hop]
    rw [exec_eq_execute _ _ (by rw [hmode]; exact him), complete, runDefinition, hres, hname, hmode]
    simp only [hcost, hconfig]

/-- What a step does, whichever way it takes: it runs the definition of the opcode byte at `PC` (R80 to R100). -/
theorem step_eq (s : State) :
    step s = .next (endStep (memPeek s s.pc) (definitionAtPc s).mnemonic
      (runDefinition (definitionAtPc s) (fetch8 (beginStep s)).2)) := by
  unfold definitionAtPc Configuration.definition
  cases hr : s.config.row (memPeek s s.pc) with
  | some d => rw [step_of_row hr]; rfl
  | none =>
    rw [step_of_exec hr (exec_fetched _ _)]
    exact congrArg (fun m => Host.Outcome.next (endStep _ m _))
      ((congrArg Form.mnemonic (assemble_form (memPeek s s.pc) _ _)).trans rfl)

end Sys2Proof.Machine
end

