-- ==== Sys2Proof/Tests/Slice0.lean ====
section
/-!
SUPPORT. Tests. Expected results come from the spec: the words from the opcode table, the steps from the vectors of
`spec/95_test_vectors.md` and `spec/96_derived_vectors.md` (a test's comment names its row), the bus operations from the
rows M1 to M34. Then the witnesses: states and operands that meet the hypotheses of the statements.
-/

namespace Sys2Proof.Tests

open Sys2Proof.Machine

/-! ### Well-formedness: the one check, with a term it refuses (R67: `0xA9` is a supported byte) -/

theorem test_wellFormed_refuses : ¬ (Instr.unknown 0xA9).WellFormed ∧ ¬ (Instr.unknown 0x00).WellFormed := by decide

theorem test_wellFormed_accepts :
    (Instr.unknown 0x02).WellFormed ∧ (Instr.unknown 0xFF).WellFormed ∧ (Instr.ldaImm 0xFF).WellFormed ∧
      (Instr.jmpInd 0xFFFF).WellFormed := by decide

/-! ### Decoding: one word per form, the opcode byte from the opcode table, operand bytes `34` and `12` -/

theorem test_decode_lda :
    decode [0xA9, 0x34] = .ok (.ldaImm 0x34, []) ∧
    decode [0xA5, 0x34] = .ok (.ldaZp 0x34, []) ∧
    decode [0xB5, 0x34] = .ok (.ldaZpx 0x34, []) ∧
    decode [0xAD, 0x34, 0x12] = .ok (.ldaAbs 0x1234, []) ∧
    decode [0xBD, 0x34, 0x12] = .ok (.ldaAbx 0x1234, []) ∧
    decode [0xB9, 0x34, 0x12] = .ok (.ldaAby 0x1234, []) ∧
    decode [0xA1, 0x34] = .ok (.ldaIzx 0x34, []) ∧
    decode [0xB1, 0x34] = .ok (.ldaIzy 0x34, []) :=
  ⟨rfl, rfl, rfl, rfl, rfl, rfl, rfl, rfl⟩

theorem test_decode_ldx_to_ldy :
    decode [0xA2, 0x34] = .ok (.ldxImm 0x34, []) ∧
    decode [0xA6, 0x34] = .ok (.ldxZp 0x34, []) ∧
    decode [0xB6, 0x34] = .ok (.ldxZpy 0x34, []) ∧
    decode [0xAE, 0x34, 0x12] = .ok (.ldxAbs 0x1234, []) ∧
    decode [0xBE, 0x34, 0x12] = .ok (.ldxAby 0x1234, []) ∧
    decode [0xA0, 0x34] = .ok (.ldyImm 0x34, []) ∧
    decode [0xA4, 0x34] = .ok (.ldyZp 0x34, []) ∧
    decode [0xB4, 0x34] = .ok (.ldyZpx 0x34, []) ∧
    decode [0xAC, 0x34, 0x12] = .ok (.ldyAbs 0x1234, []) ∧
    decode [0xBC, 0x34, 0x12] = .ok (.ldyAbx 0x1234, []) :=
  ⟨rfl, rfl, rfl, rfl, rfl, rfl, rfl, rfl, rfl, rfl⟩

theorem test_decode_sta_to_sty :
    decode [0x85, 0x34] = .ok (.staZp 0x34, []) ∧
    decode [0x95, 0x34] = .ok (.staZpx 0x34, []) ∧
    decode [0x8D, 0x34, 0x12] = .ok (.staAbs 0x1234, []) ∧
    decode [0x9D, 0x34, 0x12] = .ok (.staAbx 0x1234, []) ∧
    decode [0x99, 0x34, 0x12] = .ok (.staAby 0x1234, []) ∧
    decode [0x81, 0x34] = .ok (.staIzx 0x34, []) ∧
    decode [0x91, 0x34] = .ok (.staIzy 0x34, []) ∧
    decode [0x86, 0x34] = .ok (.stxZp 0x34, []) ∧
    decode [0x96, 0x34] = .ok (.stxZpy 0x34, []) ∧
    decode [0x8E, 0x34, 0x12] = .ok (.stxAbs 0x1234, []) ∧
    decode [0x84, 0x34] = .ok (.styZp 0x34, []) ∧
    decode [0x94, 0x34] = .ok (.styZpx 0x34, []) ∧
    decode [0x8C, 0x34, 0x12] = .ok (.styAbs 0x1234, []) :=
  ⟨rfl, rfl, rfl, rfl, rfl, rfl, rfl, rfl, rfl, rfl, rfl, rfl, rfl⟩

theorem test_decode_tax_to_txs :
    decode [0xAA] = .ok (.tax, []) ∧
    decode [0xA8] = .ok (.tay, []) ∧
    decode [0x8A] = .ok (.txa, []) ∧
    decode [0x98] = .ok (.tya, []) ∧
    decode [0xBA] = .ok (.tsx, []) ∧
    decode [0x9A] = .ok (.txs, []) :=
  ⟨rfl, rfl, rfl, rfl, rfl, rfl⟩

theorem test_decode_adc :
    decode [0x69, 0x34] = .ok (.adcImm 0x34, []) ∧
    decode [0x65, 0x34] = .ok (.adcZp 0x34, []) ∧
    decode [0x75, 0x34] = .ok (.adcZpx 0x34, []) ∧
    decode [0x6D, 0x34, 0x12] = .ok (.adcAbs 0x1234, []) ∧
    decode [0x7D, 0x34, 0x12] = .ok (.adcAbx 0x1234, []) ∧
    decode [0x79, 0x34, 0x12] = .ok (.adcAby 0x1234, []) ∧
    decode [0x61, 0x34] = .ok (.adcIzx 0x34, []) ∧
    decode [0x71, 0x34] = .ok (.adcIzy 0x34, []) :=
  ⟨rfl, rfl, rfl, rfl, rfl, rfl, rfl, rfl⟩

theorem test_decode_sbc :
    decode [0xE9, 0x34] = .ok (.sbcImm 0x34, []) ∧
    decode [0xE5, 0x34] = .ok (.sbcZp 0x34, []) ∧
    decode [0xF5, 0x34] = .ok (.sbcZpx 0x34, []) ∧
    decode [0xED, 0x34, 0x12] = .ok (.sbcAbs 0x1234, []) ∧
    decode [0xFD, 0x34, 0x12] = .ok (.sbcAbx 0x1234, []) ∧
    decode [0xF9, 0x34, 0x12] = .ok (.sbcAby 0x1234, []) ∧
    decode [0xE1, 0x34] = .ok (.sbcIzx 0x34, []) ∧
    decode [0xF1, 0x34] = .ok (.sbcIzy 0x34, []) :=
  ⟨rfl, rfl, rfl, rfl, rfl, rfl, rfl, rfl⟩

theorem test_decode_and :
    decode [0x29, 0x34] = .ok (.andImm 0x34, []) ∧
    decode [0x25, 0x34] = .ok (.andZp 0x34, []) ∧
    decode [0x35, 0x34] = .ok (.andZpx 0x34, []) ∧
    decode [0x2D, 0x34, 0x12] = .ok (.andAbs 0x1234, []) ∧
    decode [0x3D, 0x34, 0x12] = .ok (.andAbx 0x1234, []) ∧
    decode [0x39, 0x34, 0x12] = .ok (.andAby 0x1234, []) ∧
    decode [0x21, 0x34] = .ok (.andIzx 0x34, []) ∧
    decode [0x31, 0x34] = .ok (.andIzy 0x34, []) :=
  ⟨rfl, rfl, rfl, rfl, rfl, rfl, rfl, rfl⟩

theorem test_decode_ora :
    decode [0x09, 0x34] = .ok (.oraImm 0x34, []) ∧
    decode [0x05, 0x34] = .ok (.oraZp 0x34, []) ∧
    decode [0x15, 0x34] = .ok (.oraZpx 0x34, []) ∧
    decode [0x0D, 0x34, 0x12] = .ok (.oraAbs 0x1234, []) ∧
    decode [0x1D, 0x34, 0x12] = .ok (.oraAbx 0x1234, []) ∧
    decode [0x19, 0x34, 0x12] = .ok (.oraAby 0x1234, []) ∧
    decode [0x01, 0x34] = .ok (.oraIzx 0x34, []) ∧
    decode [0x11, 0x34] = .ok (.oraIzy 0x34, []) :=
  ⟨rfl, rfl, rfl, rfl, rfl, rfl, rfl, rfl⟩

theorem test_decode_eor :
    decode [0x49, 0x34] = .ok (.eorImm 0x34, []) ∧
    decode [0x45, 0x34] = .ok (.eorZp 0x34, []) ∧
    decode [0x55, 0x34] = .ok (.eorZpx 0x34, []) ∧
    decode [0x4D, 0x34, 0x12] = .ok (.eorAbs 0x1234, []) ∧
    decode [0x5D, 0x34, 0x12] = .ok (.eorAbx 0x1234, []) ∧
    decode [0x59, 0x34, 0x12] = .ok (.eorAby 0x1234, []) ∧
    decode [0x41, 0x34] = .ok (.eorIzx 0x34, []) ∧
    decode [0x51, 0x34] = .ok (.eorIzy 0x34, []) :=
  ⟨rfl, rfl, rfl, rfl, rfl, rfl, rfl, rfl⟩

theorem test_decode_cmp_to_cpy :
    decode [0xC9, 0x34] = .ok (.cmpImm 0x34, []) ∧
    decode [0xC5, 0x34] = .ok (.cmpZp 0x34, []) ∧
    decode [0xD5, 0x34] = .ok (.cmpZpx 0x34, []) ∧
    decode [0xCD, 0x34, 0x12] = .ok (.cmpAbs 0x1234, []) ∧
    decode [0xDD, 0x34, 0x12] = .ok (.cmpAbx 0x1234, []) ∧
    decode [0xD9, 0x34, 0x12] = .ok (.cmpAby 0x1234, []) ∧
    decode [0xC1, 0x34] = .ok (.cmpIzx 0x34, []) ∧
    decode [0xD1, 0x34] = .ok (.cmpIzy 0x34, []) ∧
    decode [0xE0, 0x34] = .ok (.cpxImm 0x34, []) ∧
    decode [0xE4, 0x34] = .ok (.cpxZp 0x34, []) ∧
    decode [0xEC, 0x34, 0x12] = .ok (.cpxAbs 0x1234, []) ∧
    decode [0xC0, 0x34] = .ok (.cpyImm 0x34, []) ∧
    decode [0xC4, 0x34] = .ok (.cpyZp 0x34, []) ∧
    decode [0xCC, 0x34, 0x12] = .ok (.cpyAbs 0x1234, []) :=
  ⟨rfl, rfl, rfl, rfl, rfl, rfl, rfl, rfl, rfl, rfl, rfl, rfl, rfl, rfl⟩

theorem test_decode_bit_to_dey :
    decode [0x24, 0x34] = .ok (.bitZp 0x34, []) ∧
    decode [0x2C, 0x34, 0x12] = .ok (.bitAbs 0x1234, []) ∧
    decode [0xE6, 0x34] = .ok (.incZp 0x34, []) ∧
    decode [0xF6, 0x34] = .ok (.incZpx 0x34, []) ∧
    decode [0xEE, 0x34, 0x12] = .ok (.incAbs 0x1234, []) ∧
    decode [0xFE, 0x34, 0x12] = .ok (.incAbx 0x1234, []) ∧
    decode [0xC6, 0x34] = .ok (.decZp 0x34, []) ∧
    decode [0xD6, 0x34] = .ok (.decZpx 0x34, []) ∧
    decode [0xCE, 0x34, 0x12] = .ok (.decAbs 0x1234, []) ∧
    decode [0xDE, 0x34, 0x12] = .ok (.decAbx 0x1234, []) ∧
    decode [0xE8] = .ok (.inx, []) ∧
    decode [0xC8] = .ok (.iny, []) ∧
    decode [0xCA] = .ok (.dex, []) ∧
    decode [0x88] = .ok (.dey, []) :=
  ⟨rfl, rfl, rfl, rfl, rfl, rfl, rfl, rfl, rfl, rfl, rfl, rfl, rfl, rfl⟩

theorem test_decode_asl_to_lsr :
    decode [0x0A] = .ok (.aslAcc, []) ∧
    decode [0x06, 0x34] = .ok (.aslZp 0x34, []) ∧
    decode [0x16, 0x34] = .ok (.aslZpx 0x34, []) ∧
    decode [0x0E, 0x34, 0x12] = .ok (.aslAbs 0x1234, []) ∧
    decode [0x1E, 0x34, 0x12] = .ok (.aslAbx 0x1234, []) ∧
    decode [0x4A] = .ok (.lsrAcc, []) ∧
    decode [0x46, 0x34] = .ok (.lsrZp 0x34, []) ∧
    decode [0x56, 0x34] = .ok (.lsrZpx 0x34, []) ∧
    decode [0x4E, 0x34, 0x12] = .ok (.lsrAbs 0x1234, []) ∧
    decode [0x5E, 0x34, 0x12] = .ok (.lsrAbx 0x1234, []) :=
  ⟨rfl, rfl, rfl, rfl, rfl, rfl, rfl, rfl, rfl, rfl⟩

theorem test_decode_rol_to_ror :
    decode [0x2A] = .ok (.rolAcc, []) ∧
    decode [0x26, 0x34] = .ok (.rolZp 0x34, []) ∧
    decode [0x36, 0x34] = .ok (.rolZpx 0x34, []) ∧
    decode [0x2E, 0x34, 0x12] = .ok (.rolAbs 0x1234, []) ∧
    decode [0x3E, 0x34, 0x12] = .ok (.rolAbx 0x1234, []) ∧
    decode [0x6A] = .ok (.rorAcc, []) ∧
    decode [0x66, 0x34] = .ok (.rorZp 0x34, []) ∧
    decode [0x76, 0x34] = .ok (.rorZpx 0x34, []) ∧
    decode [0x6E, 0x34, 0x12] = .ok (.rorAbs 0x1234, []) ∧
    decode [0x7E, 0x34, 0x12] = .ok (.rorAbx 0x1234, []) :=
  ⟨rfl, rfl, rfl, rfl, rfl, rfl, rfl, rfl, rfl, rfl⟩

theorem test_decode_jmp_to_rts :
    decode [0x4C, 0x34, 0x12] = .ok (.jmpAbs 0x1234, []) ∧
    decode [0x6C, 0x34, 0x12] = .ok (.jmpInd 0x1234, []) ∧
    decode [0x20, 0x34, 0x12] = .ok (.jsr 0x1234, []) ∧
    decode [0x60] = .ok (.rts, []) :=
  ⟨rfl, rfl, rfl, rfl⟩

theorem test_decode_bcc_to_bvs :
    decode [0x90, 0x34] = .ok (.bcc 0x34, []) ∧
    decode [0xB0, 0x34] = .ok (.bcs 0x34, []) ∧
    decode [0xF0, 0x34] = .ok (.beq 0x34, []) ∧
    decode [0xD0, 0x34] = .ok (.bne 0x34, []) ∧
    decode [0x30, 0x34] = .ok (.bmi 0x34, []) ∧
    decode [0x10, 0x34] = .ok (.bpl 0x34, []) ∧
    decode [0x50, 0x34] = .ok (.bvc 0x34, []) ∧
    decode [0x70, 0x34] = .ok (.bvs 0x34, []) :=
  ⟨rfl, rfl, rfl, rfl, rfl, rfl, rfl, rfl⟩

theorem test_decode_pha_to_plp :
    decode [0x48] = .ok (.pha, []) ∧
    decode [0x08] = .ok (.php, []) ∧
    decode [0x68] = .ok (.pla, []) ∧
    decode [0x28] = .ok (.plp, []) :=
  ⟨rfl, rfl, rfl, rfl⟩

theorem test_decode_clc_to_clv :
    decode [0x18] = .ok (.clc, []) ∧
    decode [0x38] = .ok (.sec, []) ∧
    decode [0x58] = .ok (.cli, []) ∧
    decode [0x78] = .ok (.sei, []) ∧
    decode [0xD8] = .ok (.cld, []) ∧
    decode [0xF8] = .ok (.sed, []) ∧
    decode [0xB8] = .ok (.clv, []) :=
  ⟨rfl, rfl, rfl, rfl, rfl, rfl, rfl⟩

theorem test_decode_nop_to_rti :
    decode [0xEA] = .ok (.nop, []) ∧
    decode [0x00] = .ok (.brk, []) ∧
    decode [0x40] = .ok (.rti, []) :=
  ⟨rfl, rfl, rfl⟩

/-- R67: the unknown bytes consume one byte only. -/
theorem test_decode_unknown :
    decode [0x02, 0x34, 0x12] = .ok (.unknown 0x02, [0x34, 0x12]) ∧ decode [0x1A] = .ok (.unknown 0x1A, []) ∧
    decode [0x80, 0x44] = .ok (.unknown 0x80, [0x44]) ∧ decode [0xEB, 0x01] = .ok (.unknown 0xEB, [0x01]) ∧
    decode [0xFF] = .ok (.unknown 0xFF, []) := ⟨rfl, rfl, rfl, rfl, rfl⟩

/-- A list that ends inside an instruction is rejected by name. -/
theorem test_decode_short :
    decode [] = .error .noOpcode ∧ decode [0xA9] = .error (.missingOperand 0xA9) ∧
    decode [0x4C, 0x00] = .error (.missingOperand 0x4C) := ⟨rfl, rfl, rfl⟩

/-- The bits of a table word, bit 0 the least significant of the first byte; the bits above `nbits` are 0. -/
theorem test_decodeTableWord :
    decodeTableWord 8 0xA9 = some (.ldaImm 0x00) ∧ decodeTableWord 16 0x05A9 = some (.ldaImm 0x05) ∧
    decodeTableWord 24 0x1234AD = some (.ldaAbs 0x1234) ∧ decodeTableWord 8 0xFF = some (.unknown 0xFF) := by decide

/-- The word placed runs as the first instruction after reset (`EA`, then `A9 05`). -/
theorem test_withFetchWord :
    (∃ t, step (State.reset.withFetchWord 8 0xEA) = .next t ∧ t.pc = 0x0001 ∧ t.cycles = 9) ∧
    (∃ t, step (State.reset.withFetchWord 16 0x05A9) = .next t ∧ t.a = 0x05 ∧ t.pc = 0x0002) :=
  ⟨⟨_, rfl, rfl, rfl⟩, ⟨_, rfl, rfl, rfl⟩⟩

/-! ### Bus operations: rows M1 to M34 -/

/-- The recorder's log as (kind, address, value), and that the offsets count up from 0. -/
def shows (log : List MicroOp) (ops : List (AccessKind × Word × Byte)) : Bool :=
  decide (log.map (fun o => (o.kind, o.addr, o.value)) = ops) &&
    decide (log.map MicroOp.offset = List.range ops.length)

/-- The ROM of M1 to M19. -/
def rom32 : State :=
  { State.reset with rom := [(0x0000, 0xA9), (0x0001, 0x05), (0x7FFD, 0x80)] }

/-- The ROM of M20 to M29: 16384 bytes. -/
def rom16 : State :=
  { State.reset with
    romLength := 16384
    rom := [(0x0000, 0x11), (0x1234, 0x22), (0x3FFD, 0xC0), (0x3FFE, 0x34), (0x3FFF, 0x12)] }

/-- M1 to M13: a write through one mirror is read through the others, and the address is recorded as issued. -/
theorem test_mirrors :
    (memRead (memWrite rom32 0x0000 0xAB) 0x1800).1 = 0xAB ∧ (memRead (memWrite rom32 0x1FFF 0xCD) 0x07FF).1 = 0xCD ∧
    (memRead (memWrite rom32 0x0C10 0x5A) 0x0410).1 = 0x5A ∧
    shows (memRead (memWrite rom32 0x0C10 0x5A) 0x0410).2.log [(.write, 0x0C10, 0x5A), (.read, 0x0410, 0x5A)] := by
  decide

/-- M15 to M17: unmapped addresses. -/
theorem test_unmapped :
    (memRead (memWrite rom32 0x2000 0xFF) 0x2000).1 = 0x00 ∧ (memRead (memWrite rom32 0x7FFF 0xFF) 0x7FFF).1 = 0x00 ∧
    (memRead rom32 0x4016).1 = 0x00 ∧ shows (memWrite rom32 0x2000 0xFF).log [(.write, 0x2000, 0xFF)] := by decide

/-- M18, M19: a write to ROM is recorded and ignored; a peek records nothing. -/
theorem test_rom_write :
    (memRead (memWrite rom32 0x8000 0xFF) 0x8000).1 = 0xA9 ∧ memPeek rom32 0x8001 = 0x05 ∧ memPeek rom32 0x3000 = 0 ∧
    shows (memWrite rom32 0x8000 0xFF).log [(.write, 0x8000, 0xFF)] := by decide

/-- M20 to M29: a 16 KB image is seen twice. -/
theorem test_rom16 :
    memPeek rom16 0x8000 = 0x11 ∧ memPeek rom16 0xC000 = 0x11 ∧ memPeek rom16 0x9234 = 0x22 ∧
    memPeek rom16 0xD234 = 0x22 ∧ memPeek rom16 0xBFFD = 0xC0 ∧ memPeek rom16 0xFFFD = 0xC0 ∧
    memPeek rom16 0xFFFF = 0x12 ∧ rom16.applyReset.pc = 0xC000 := by decide

/-- M30 to M34: a 32 KB image is not. -/
theorem test_rom32 :
    let s := { State.reset with rom := [(0x0000, 0x11), (0x4000, 0x33), (0x7FFC, 0x34), (0x7FFD, 0x92)] }
    memPeek s 0x8000 = 0x11 ∧ memPeek s 0xC000 = 0x33 ∧ memPeek s 0xBFFC = 0x00 ∧ s.applyReset.pc = 0x9234 := by decide

/-- Memory keeps its one form: a write of 00 removes the cell. -/
theorem test_memory_form :
    Memory.write (Memory.write [] 5 0x11) 3 0x22 = [(3, 0x22), (5, 0x11)] ∧
    Memory.write [(3, 0x22), (5, 0x11)] 3 0x00 = [(5, 0x11)] ∧
    Memory.wf [(5, 0x11), (3, 0x22)] = false ∧ Memory.wf [(5, 0x00)] = false := by decide

/-- R222: a warm reset keeps RAM, the log and everything it does not name. -/
theorem test_warm_reset :
    let s := { rom32 with a := 0x42, sp := 0xFF, p := 0xB4, cycles := 19, seq := 5, ram := [(0x0000, 0x42)] }
    s.applyReset = { s with a := 0, sp := 0xFD, p := 0x34, pc := 0x8000, cycles := 7, seq := 0 } := by decide

/-! ### Single steps: rows of `spec/96_derived_vectors.md` -/

/-- A start state: code in ROM at `at`, the rest as after reset. -/
def start (code : List Byte) (at_ : Word) : State :=
  { State.reset with rom := Memory.ofBytesFrom (at_.toNat - 0x8000) code, pc := at_ }

/-- The step completes with these micro-ops, `A X Y P S PC` and cost. -/
def runs (s : State) (ops : List (AccessKind × Word × Byte)) (a x y p sp : Byte) (pc : Word) (cost : Nat) : Bool :=
  match step s with
  | .next t =>
    shows t.log ops && decide ((t.a, t.x, t.y, t.p, t.sp) = (a, x, y, p, sp)) && decide (t.pc = pc) &&
      decide (t.cycles = s.cycles + cost) && decide (t.seq = s.seq + 1)
  | _ => false

/-- The byte of a RAM cell after the step. -/
def cellAfter (s : State) (n : Nat) : Byte :=
  match step s with
  | .next t => t.ram.read n
  | _ => 0

/-- V40.6 -/
theorem test_lda_1 :
    let s : State := { start [0xBD, 0xFF, 0x12] 0x8000 with x := 0x01, ram := [(0x0300, 0x77)] }
    runs s [(.read, 0x8000, 0xBD), (.read, 0x8001, 0xFF), (.read, 0x8002, 0x12), (.read, 0x1300, 0x77)]
      0x77 0x01 0x00 0x34 0xFD 0x8003 5 = true := by decide

/-- V40.16 -/
theorem test_lda_2 :
    let s : State := { start [0xB1, 0xFF] 0x8000 with y := 0x05, ram := [(0x0000, 0x03), (0x0305, 0x42)] }
    runs s [(.read, 0x8000, 0xB1), (.read, 0x8001, 0xFF), (.read, 0x00FF, 0x00), (.read, 0x0000, 0x03), (.read, 0x0305, 0x42)]
      0x42 0x00 0x05 0x34 0xFD 0x8002 5 = true := by decide

/-- V40.17 -/
theorem test_ldx_1 :
    let s : State := { start [0xB6, 0xF0] 0x8000 with y := 0x20, ram := [(0x0010, 0x07)] }
    runs s [(.read, 0x8000, 0xB6), (.read, 0x8001, 0xF0), (.read, 0x0010, 0x07)]
      0x00 0x07 0x20 0x34 0xFD 0x8002 4 = true := by decide

/-- V41.9 -/
theorem test_ldx_2 :
    let s : State := { start [0xBE, 0xFF, 0x02] 0x8000 with y := 0x01, ram := [(0x0300, 0x01)] }
    runs s [(.read, 0x8000, 0xBE), (.read, 0x8001, 0xFF), (.read, 0x8002, 0x02), (.read, 0x0300, 0x01)]
      0x00 0x01 0x01 0x34 0xFD 0x8003 5 = true := by decide

/-- V41.14 -/
theorem test_ldy_1 :
    let s : State := { start [0xBC, 0xFF, 0x02] 0x8000 with x := 0x01, ram := [(0x0300, 0x80)] }
    runs s [(.read, 0x8000, 0xBC), (.read, 0x8001, 0xFF), (.read, 0x8002, 0x02), (.read, 0x0300, 0x80)]
      0x00 0x01 0x80 0xB4 0xFD 0x8003 5 = true := by decide

/-- V41.11 -/
theorem test_ldy_2 :
    let s := start [0xA0, 0x00] 0x8000
    runs s [(.read, 0x8000, 0xA0), (.read, 0x8001, 0x00)]
      0x00 0x00 0x00 0x36 0xFD 0x8002 2 = true := by decide

/-- V41.22 -/
theorem test_sta_1 :
    let s : State := { start [0x91, 0x20] 0x8000 with a := 0x42, y := 0x10, ram := [(0x0020, 0xF8), (0x0021, 0x03)] }
    runs s [(.read, 0x8000, 0x91), (.read, 0x8001, 0x20), (.read, 0x0020, 0xF8), (.read, 0x0021, 0x03), (.write, 0x0408, 0x42)]
      0x42 0x00 0x10 0x34 0xFD 0x8002 6 = true ∧ cellAfter s 0x0408 = 0x42 := by decide

/-- V41.24 -/
theorem test_sta_2 :
    let s : State := { start [0x8D, 0x00, 0x80] 0x8000 with a := 0x42 }
    runs s [(.read, 0x8000, 0x8D), (.read, 0x8001, 0x00), (.read, 0x8002, 0x80), (.write, 0x8000, 0x42)]
      0x42 0x00 0x00 0x34 0xFD 0x8003 4 = true := by decide

/-- V41.26 -/
theorem test_stx :
    let s : State := { start [0x96, 0xF0] 0x8000 with x := 0x07, y := 0x20 }
    runs s [(.read, 0x8000, 0x96), (.read, 0x8001, 0xF0), (.write, 0x0010, 0x07)]
      0x00 0x07 0x20 0x34 0xFD 0x8002 4 = true ∧ cellAfter s 0x0010 = 0x07 := by decide

/-- V41.29 -/
theorem test_sty :
    let s : State := { start [0x94, 0x10] 0x8000 with x := 0x01, y := 0x06 }
    runs s [(.read, 0x8000, 0x94), (.read, 0x8001, 0x10), (.write, 0x0011, 0x06)]
      0x00 0x01 0x06 0x34 0xFD 0x8002 4 = true ∧ cellAfter s 0x0011 = 0x06 := by decide

/-- V41.31 -/
theorem test_tax :
    let s : State := { start [0xAA] 0x8000 with a := 0x80 }
    runs s [(.read, 0x8000, 0xAA)]
      0x80 0x80 0x00 0xB4 0xFD 0x8001 2 = true := by decide

/-- V41.33 -/
theorem test_tay :
    let s : State := { start [0xA8] 0x8000 with a := 0x00, y := 0x55 }
    runs s [(.read, 0x8000, 0xA8)]
      0x00 0x00 0x00 0x36 0xFD 0x8001 2 = true := by decide

/-- V41.35 -/
theorem test_txa :
    let s : State := { start [0x8A] 0x8000 with x := 0x7F }
    runs s [(.read, 0x8000, 0x8A)]
      0x7F 0x7F 0x00 0x34 0xFD 0x8001 2 = true := by decide

/-- V41.37 -/
theorem test_tya :
    let s : State := { start [0x98] 0x8000 with y := 0xFF }
    runs s [(.read, 0x8000, 0x98)]
      0xFF 0x00 0xFF 0xB4 0xFD 0x8001 2 = true := by decide

/-- V41.38 -/
theorem test_tsx :
    let s := start [0xBA] 0x8000
    runs s [(.read, 0x8000, 0xBA)]
      0x00 0xFD 0x00 0xB4 0xFD 0x8001 2 = true := by decide

/-- V41.40 -/
theorem test_txs :
    let s : State := { start [0x9A] 0x8000 with x := 0x00 }
    runs s [(.read, 0x8000, 0x9A)]
      0x00 0x00 0x00 0x34 0x00 0x8001 2 = true := by decide

/-- V42.5 -/
theorem test_adc_1 :
    let s : State := { start [0x69, 0x00] 0x8000 with a := 0x7F, p := 0x35 }
    runs s [(.read, 0x8000, 0x69), (.read, 0x8001, 0x00)]
      0x80 0x00 0x00 0xF4 0xFD 0x8002 2 = true := by decide

/-- V42.12 -/
theorem test_adc_2 :
    let s : State := { start [0x69, 0x01] 0x8000 with a := 0x99, p := 0x3C }
    runs s [(.read, 0x8000, 0x69), (.read, 0x8001, 0x01)]
      0x9A 0x00 0x00 0xBC 0xFD 0x8002 2 = true := by decide

/-- V42.19 -/
theorem test_sbc_1 :
    let s : State := { start [0xE9, 0x04] 0x8000 with a := 0x05, p := 0x34 }
    runs s [(.read, 0x8000, 0xE9), (.read, 0x8001, 0x04)]
      0x00 0x00 0x00 0x37 0xFD 0x8002 2 = true := by decide

/-- V42.26 -/
theorem test_sbc_2 :
    let s : State := { start [0xF1, 0x20] 0x8000 with a := 0x03, y := 0x10, p := 0x35, ram := [(0x0020, 0xF8), (0x0021, 0x03), (0x0408, 0x01)] }
    runs s [(.read, 0x8000, 0xF1), (.read, 0x8001, 0x20), (.read, 0x0020, 0xF8), (.read, 0x0021, 0x03), (.read, 0x0408, 0x01)]
      0x02 0x00 0x10 0x35 0xFD 0x8002 6 = true := by decide

/-- V42.28 -/
theorem test_and_1 :
    let s : State := { start [0x29, 0x80] 0x8000 with a := 0xFF }
    runs s [(.read, 0x8000, 0x29), (.read, 0x8001, 0x80)]
      0x80 0x00 0x00 0xB4 0xFD 0x8002 2 = true := by decide

/-- V46.13 -/
theorem test_and_2 :
    let s : State := { start [0x31, 0x20] 0x8000 with a := 0x5C, x := 0x04, y := 0x10, p := 0x35, ram := [(0x0020, 0x30), (0x0021, 0x02), (0x0240, 0x36)] }
    runs s [(.read, 0x8000, 0x31), (.read, 0x8001, 0x20), (.read, 0x0020, 0x30), (.read, 0x0021, 0x02), (.read, 0x0240, 0x36)]
      0x14 0x04 0x10 0x35 0xFD 0x8002 5 = true := by decide

/-- V42.30 -/
theorem test_ora_1 :
    let s : State := { start [0x09, 0x80] 0x8000 with a := 0x01 }
    runs s [(.read, 0x8000, 0x09), (.read, 0x8001, 0x80)]
      0x81 0x00 0x00 0xB4 0xFD 0x8002 2 = true := by decide

/-- V46.8 -/
theorem test_ora_2 :
    let s : State := { start [0x1D, 0x3C, 0x02] 0x8000 with a := 0x5C, x := 0x04, y := 0x10, p := 0x35, ram := [(0x0240, 0x36)] }
    runs s [(.read, 0x8000, 0x1D), (.read, 0x8001, 0x3C), (.read, 0x8002, 0x02), (.read, 0x0240, 0x36)]
      0x7E 0x04 0x10 0x35 0xFD 0x8003 4 = true := by decide

/-- V42.33 -/
theorem test_eor_1 :
    let s : State := { start [0x49, 0xFF] 0x8000 with a := 0x0F }
    runs s [(.read, 0x8000, 0x49), (.read, 0x8001, 0xFF)]
      0xF0 0x00 0x00 0xB4 0xFD 0x8002 2 = true := by decide

/-- V46.25 -/
theorem test_eor_2 :
    let s : State := { start [0x59, 0x30, 0x02] 0x8000 with a := 0x5C, x := 0x04, y := 0x10, p := 0x35, ram := [(0x0240, 0x36)] }
    runs s [(.read, 0x8000, 0x59), (.read, 0x8001, 0x30), (.read, 0x8002, 0x02), (.read, 0x0240, 0x36)]
      0x6A 0x04 0x10 0x35 0xFD 0x8003 4 = true := by decide

/-- V42.40 -/
theorem test_cmp_1 :
    let s : State := { start [0xC9, 0x05] 0x8000 with a := 0x05, p := 0x74 }
    runs s [(.read, 0x8000, 0xC9), (.read, 0x8001, 0x05)]
      0x05 0x00 0x00 0x77 0xFD 0x8002 2 = true := by decide

/-- V42.39 -/
theorem test_cmp_2 :
    let s : State := { start [0xC9, 0x80] 0x8000 with a := 0x7F }
    runs s [(.read, 0x8000, 0xC9), (.read, 0x8001, 0x80)]
      0x7F 0x00 0x00 0xB4 0xFD 0x8002 2 = true := by decide

/-- V42.43 -/
theorem test_cpx :
    let s : State := { start [0xE4, 0x10] 0x8000 with x := 0x10, ram := [(0x0010, 0x0F)] }
    runs s [(.read, 0x8000, 0xE4), (.read, 0x8001, 0x10), (.read, 0x0010, 0x0F)]
      0x00 0x10 0x00 0x35 0xFD 0x8002 3 = true := by decide

/-- V42.44 -/
theorem test_cpy :
    let s := start [0xC0, 0x01] 0x8000
    runs s [(.read, 0x8000, 0xC0), (.read, 0x8001, 0x01)]
      0x00 0x00 0x00 0xB4 0xFD 0x8002 2 = true := by decide

/-- V42.47 -/
theorem test_bit_1 :
    let s : State := { start [0x24, 0x10] 0x8000 with a := 0x01, ram := [(0x0010, 0xC0)] }
    runs s [(.read, 0x8000, 0x24), (.read, 0x8001, 0x10), (.read, 0x0010, 0xC0)]
      0x01 0x00 0x00 0xF6 0xFD 0x8002 3 = true := by decide

/-- V42.50 -/
theorem test_bit_2 :
    let s : State := { start [0x2C, 0x00, 0x02] 0x8000 with a := 0x80, p := 0x35, ram := [(0x0200, 0x80)] }
    runs s [(.read, 0x8000, 0x2C), (.read, 0x8001, 0x00), (.read, 0x8002, 0x02), (.read, 0x0200, 0x80)]
      0x80 0x00 0x00 0xB5 0xFD 0x8003 4 = true := by decide

/-- V42.57 -/
theorem test_inc_1 :
    let s := start [0xEE, 0x00, 0x80] 0x8000
    runs s [(.read, 0x8000, 0xEE), (.read, 0x8001, 0x00), (.read, 0x8002, 0x80), (.read, 0x8000, 0xEE), (.write, 0x8000, 0xEF)]
      0x00 0x00 0x00 0xB4 0xFD 0x8003 6 = true := by decide

/-- V42.56 -/
theorem test_inc_2 :
    let s : State := { start [0xFE, 0x00, 0x03] 0x8000 with x := 0x01, ram := [(0x0301, 0x7F)] }
    runs s [(.read, 0x8000, 0xFE), (.read, 0x8001, 0x00), (.read, 0x8002, 0x03), (.read, 0x0301, 0x7F), (.write, 0x0301, 0x80)]
      0x00 0x01 0x00 0xB4 0xFD 0x8003 7 = true ∧ cellAfter s 0x0301 = 0x80 := by decide

/-- V42.59 -/
theorem test_dec_1 :
    let s := start [0xC6, 0x10] 0x8000
    runs s [(.read, 0x8000, 0xC6), (.read, 0x8001, 0x10), (.read, 0x0010, 0x00), (.write, 0x0010, 0xFF)]
      0x00 0x00 0x00 0xB4 0xFD 0x8002 5 = true ∧ cellAfter s 0x0010 = 0xFF := by decide

/-- V42.61 -/
theorem test_dec_2 :
    let s : State := { start [0xDE, 0x00, 0x03] 0x8000 with x := 0x01, ram := [(0x0301, 0x80)] }
    runs s [(.read, 0x8000, 0xDE), (.read, 0x8001, 0x00), (.read, 0x8002, 0x03), (.read, 0x0301, 0x80), (.write, 0x0301, 0x7F)]
      0x00 0x01 0x00 0x34 0xFD 0x8003 7 = true ∧ cellAfter s 0x0301 = 0x7F := by decide

/-- V42.70 -/
theorem test_inx :
    let s : State := { start [0xE8] 0x8000 with x := 0xFF, p := 0x35 }
    runs s [(.read, 0x8000, 0xE8)]
      0x00 0x00 0x00 0x37 0xFD 0x8001 2 = true := by decide

/-- V42.65 -/
theorem test_iny :
    let s : State := { start [0xC8] 0x8000 with y := 0x7F }
    runs s [(.read, 0x8000, 0xC8)]
      0x00 0x00 0x80 0xB4 0xFD 0x8001 2 = true := by decide

/-- V42.66 -/
theorem test_dex :
    let s : State := { start [0xCA] 0x8000 with x := 0x00 }
    runs s [(.read, 0x8000, 0xCA)]
      0x00 0xFF 0x00 0xB4 0xFD 0x8001 2 = true := by decide

/-- V42.69 -/
theorem test_dey :
    let s : State := { start [0x88] 0x8000 with y := 0x01 }
    runs s [(.read, 0x8000, 0x88)]
      0x00 0x00 0x00 0x36 0xFD 0x8001 2 = true := by decide

/-- V43.4 -/
theorem test_asl_1 :
    let s : State := { start [0x0A] 0x8000 with a := 0x01, p := 0x35 }
    runs s [(.read, 0x8000, 0x0A)]
      0x02 0x00 0x00 0x34 0xFD 0x8001 2 = true := by decide

/-- V43.20 -/
theorem test_asl_2 :
    let s := start [0x0E, 0x00, 0x80] 0x8000
    runs s [(.read, 0x8000, 0x0E), (.read, 0x8001, 0x00), (.read, 0x8002, 0x80), (.read, 0x8000, 0x0E), (.write, 0x8000, 0x1C)]
      0x00 0x00 0x00 0x34 0xFD 0x8003 6 = true := by decide

/-- V43.9 -/
theorem test_lsr_1 :
    let s : State := { start [0x4A] 0x8000 with a := 0xFF, p := 0xB4 }
    runs s [(.read, 0x8000, 0x4A)]
      0x7F 0x00 0x00 0x35 0xFD 0x8001 2 = true := by decide

/-- V43.10 -/
theorem test_lsr_2 :
    let s : State := { start [0x4E, 0x00, 0x02] 0x8000 with ram := [(0x0200, 0x03)] }
    runs s [(.read, 0x8000, 0x4E), (.read, 0x8001, 0x00), (.read, 0x8002, 0x02), (.read, 0x0200, 0x03), (.write, 0x0200, 0x01)]
      0x00 0x00 0x00 0x35 0xFD 0x8003 6 = true ∧ cellAfter s 0x0200 = 0x01 := by decide

/-- V43.14 -/
theorem test_rol_1 :
    let s : State := { start [0x36, 0xF0] 0x8000 with x := 0x20, p := 0x35, ram := [(0x0010, 0x40)] }
    runs s [(.read, 0x8000, 0x36), (.read, 0x8001, 0xF0), (.read, 0x0010, 0x40), (.write, 0x0010, 0x81)]
      0x00 0x20 0x00 0xB4 0xFD 0x8002 6 = true ∧ cellAfter s 0x0010 = 0x81 := by decide

/-- V43.12 -/
theorem test_rol_2 :
    let s : State := { start [0x2A] 0x8000 with a := 0x80, p := 0x34 }
    runs s [(.read, 0x8000, 0x2A)]
      0x00 0x00 0x00 0x37 0xFD 0x8001 2 = true := by decide

/-- V43.17 -/
theorem test_ror_1 :
    let s : State := { start [0x6A] 0x8000 with a := 0x01, p := 0x35 }
    runs s [(.read, 0x8000, 0x6A)]
      0x80 0x00 0x00 0xB5 0xFD 0x8001 2 = true := by decide

/-- V43.19 -/
theorem test_ror_2 :
    let s : State := { start [0x7E, 0xFF, 0x12] 0x8000 with x := 0x01, p := 0x35, ram := [(0x0300, 0x10)] }
    runs s [(.read, 0x8000, 0x7E), (.read, 0x8001, 0xFF), (.read, 0x8002, 0x12), (.read, 0x1300, 0x10), (.write, 0x1300, 0x88)]
      0x00 0x01 0x00 0xB4 0xFD 0x8003 7 = true ∧ cellAfter s 0x0300 = 0x88 := by decide

/-- V44.1 -/
theorem test_jmp_1 :
    let s := start [0x4C, 0x34, 0x12] 0x8000
    runs s [(.read, 0x8000, 0x4C), (.read, 0x8001, 0x34), (.read, 0x8002, 0x12)]
      0x00 0x00 0x00 0x34 0xFD 0x1234 3 = true := by decide

/-- V44.4 -/
theorem test_jmp_2 :
    let s : State := { start [0x6C, 0xFF, 0x02] 0x8000 with ram := [(0x0200, 0x56), (0x02FF, 0x78), (0x0300, 0x99)] }
    runs s [(.read, 0x8000, 0x6C), (.read, 0x8001, 0xFF), (.read, 0x8002, 0x02), (.read, 0x02FF, 0x78), (.read, 0x0200, 0x56)]
      0x00 0x00 0x00 0x34 0xFD 0x5678 5 = true := by decide

/-- V44.6 -/
theorem test_jsr_1 :
    let s : State := { start [0x20, 0x00, 0x90] 0x8000 with sp := 0x00 }
    runs s [(.read, 0x8000, 0x20), (.read, 0x8001, 0x00), (.read, 0x8002, 0x90), (.write, 0x0100, 0x80), (.write, 0x01FF, 0x02)]
      0x00 0x00 0x00 0x34 0xFE 0x9000 6 = true := by decide

/-- V44.7 -/
theorem test_jsr_2 :
    let s := start [0x20, 0x34, 0x12] 0x80FE
    runs s [(.read, 0x80FE, 0x20), (.read, 0x80FF, 0x34), (.read, 0x8100, 0x12), (.write, 0x01FD, 0x81), (.write, 0x01FC, 0x00)]
      0x00 0x00 0x00 0x34 0xFB 0x1234 6 = true := by decide

/-- V44.9 -/
theorem test_rts_1 :
    let s : State := { start [0x60] 0x8000 with sp := 0xFB, ram := [(0x01FC, 0xFF), (0x01FD, 0xFF)] }
    runs s [(.read, 0x8000, 0x60), (.read, 0x01FC, 0xFF), (.read, 0x01FD, 0xFF)]
      0x00 0x00 0x00 0x34 0xFD 0x0000 6 = true := by decide

/-- V44.10 -/
theorem test_rts_2 :
    let s : State := { start [0x60] 0x8000 with sp := 0xFF, ram := [(0x0100, 0x33), (0x0101, 0x12)] }
    runs s [(.read, 0x8000, 0x60), (.read, 0x0100, 0x33), (.read, 0x0101, 0x12)]
      0x00 0x00 0x00 0x34 0x01 0x1234 6 = true := by decide

/-- V44.11 -/
theorem test_bcc_1 :
    let s : State := { start [0x90, 0x05] 0x8000 with p := 0x34 }
    runs s [(.read, 0x8000, 0x90), (.read, 0x8001, 0x05)]
      0x00 0x00 0x00 0x34 0xFD 0x8007 3 = true := by decide

/-- V44.12 -/
theorem test_bcc_2 :
    let s : State := { start [0x90, 0x05] 0x8000 with p := 0x35 }
    runs s [(.read, 0x8000, 0x90), (.read, 0x8001, 0x05)]
      0x00 0x00 0x00 0x35 0xFD 0x8002 2 = true := by decide

/-- V44.13 -/
theorem test_bcs_1 :
    let s : State := { start [0xB0, 0x05] 0x8000 with p := 0x35 }
    runs s [(.read, 0x8000, 0xB0), (.read, 0x8001, 0x05)]
      0x00 0x00 0x00 0x35 0xFD 0x8007 3 = true := by decide

/-- V44.14 -/
theorem test_bcs_2 :
    let s : State := { start [0xB0, 0x05] 0x8000 with p := 0x34 }
    runs s [(.read, 0x8000, 0xB0), (.read, 0x8001, 0x05)]
      0x00 0x00 0x00 0x34 0xFD 0x8002 2 = true := by decide

/-- V44.27 -/
theorem test_beq_1 :
    let s : State := { start [0xF0, 0x02] 0x80FD with p := 0x36 }
    runs s [(.read, 0x80FD, 0xF0), (.read, 0x80FE, 0x02)]
      0x00 0x00 0x00 0x36 0xFD 0x8101 4 = true := by decide

/-- V44.29 -/
theorem test_beq_2 :
    let s : State := { start [0xF0, 0x02] 0x80FD with p := 0x34 }
    runs s [(.read, 0x80FD, 0xF0), (.read, 0x80FE, 0x02)]
      0x00 0x00 0x00 0x34 0xFD 0x80FF 2 = true := by decide

/-- V44.30 -/
theorem test_bne_1 :
    let s := start [0xD0, 0xFD] 0x8100
    runs s [(.read, 0x8100, 0xD0), (.read, 0x8101, 0xFD)]
      0x00 0x00 0x00 0x34 0xFD 0x80FF 4 = true := by decide

/-- V44.18 -/
theorem test_bne_2 :
    let s : State := { start [0xD0, 0x05] 0x8000 with p := 0x36 }
    runs s [(.read, 0x8000, 0xD0), (.read, 0x8001, 0x05)]
      0x00 0x00 0x00 0x36 0xFD 0x8002 2 = true := by decide

/-- V44.19 -/
theorem test_bmi_1 :
    let s : State := { start [0x30, 0x05] 0x8000 with p := 0xB4 }
    runs s [(.read, 0x8000, 0x30), (.read, 0x8001, 0x05)]
      0x00 0x00 0x00 0xB4 0xFD 0x8007 3 = true := by decide

/-- V44.20 -/
theorem test_bmi_2 :
    let s : State := { start [0x30, 0x05] 0x8000 with p := 0x34 }
    runs s [(.read, 0x8000, 0x30), (.read, 0x8001, 0x05)]
      0x00 0x00 0x00 0x34 0xFD 0x8002 2 = true := by decide

/-- V44.21 -/
theorem test_bpl_1 :
    let s : State := { start [0x10, 0x05] 0x8000 with p := 0x34 }
    runs s [(.read, 0x8000, 0x10), (.read, 0x8001, 0x05)]
      0x00 0x00 0x00 0x34 0xFD 0x8007 3 = true := by decide

/-- V44.22 -/
theorem test_bpl_2 :
    let s : State := { start [0x10, 0x05] 0x8000 with p := 0xB4 }
    runs s [(.read, 0x8000, 0x10), (.read, 0x8001, 0x05)]
      0x00 0x00 0x00 0xB4 0xFD 0x8002 2 = true := by decide

/-- V44.23 -/
theorem test_bvc_1 :
    let s : State := { start [0x50, 0x05] 0x8000 with p := 0x34 }
    runs s [(.read, 0x8000, 0x50), (.read, 0x8001, 0x05)]
      0x00 0x00 0x00 0x34 0xFD 0x8007 3 = true := by decide

/-- V44.24 -/
theorem test_bvc_2 :
    let s : State := { start [0x50, 0x05] 0x8000 with p := 0x74 }
    runs s [(.read, 0x8000, 0x50), (.read, 0x8001, 0x05)]
      0x00 0x00 0x00 0x74 0xFD 0x8002 2 = true := by decide

/-- V44.25 -/
theorem test_bvs_1 :
    let s : State := { start [0x70, 0x05] 0x8000 with p := 0x74 }
    runs s [(.read, 0x8000, 0x70), (.read, 0x8001, 0x05)]
      0x00 0x00 0x00 0x74 0xFD 0x8007 3 = true := by decide

/-- V44.26 -/
theorem test_bvs_2 :
    let s : State := { start [0x70, 0x05] 0x8000 with p := 0x34 }
    runs s [(.read, 0x8000, 0x70), (.read, 0x8001, 0x05)]
      0x00 0x00 0x00 0x34 0xFD 0x8002 2 = true := by decide

/-- V45.2 -/
theorem test_pha :
    let s : State := { start [0x48] 0x8000 with a := 0x42, sp := 0x00 }
    runs s [(.read, 0x8000, 0x48), (.write, 0x0100, 0x42)]
      0x42 0x00 0x00 0x34 0xFF 0x8001 3 = true ∧ cellAfter s 0x0100 = 0x42 := by decide

/-- V45.5 -/
theorem test_php :
    let s : State := { start [0x08] 0x8000 with p := 0xE5 }
    runs s [(.read, 0x8000, 0x08), (.write, 0x01FD, 0xF5)]
      0x00 0x00 0x00 0xE5 0xFC 0x8001 3 = true ∧ cellAfter s 0x01FD = 0xF5 := by decide

/-- V45.8 -/
theorem test_pla :
    let s : State := { start [0x68] 0x8000 with sp := 0xFF, ram := [(0x0100, 0x7F)] }
    runs s [(.read, 0x8000, 0x68), (.read, 0x0100, 0x7F)]
      0x7F 0x00 0x00 0x34 0x00 0x8001 4 = true := by decide

/-- V45.9 -/
theorem test_plp :
    let s : State := { start [0x28] 0x8000 with sp := 0xFC, ram := [(0x01FD, 0xFF)] }
    runs s [(.read, 0x8000, 0x28), (.read, 0x01FD, 0xFF)]
      0x00 0x00 0x00 0xEF 0xFD 0x8001 4 = true := by decide

/-- V45.13 -/
theorem test_clc :
    let s : State := { start [0x18] 0x8000 with p := 0xFF }
    runs s [(.read, 0x8000, 0x18)]
      0x00 0x00 0x00 0xFE 0xFD 0x8001 2 = true := by decide

/-- V45.14 -/
theorem test_sec :
    let s : State := { start [0x38] 0x8000 with p := 0x20 }
    runs s [(.read, 0x8000, 0x38)]
      0x00 0x00 0x00 0x21 0xFD 0x8001 2 = true := by decide

/-- V45.15 -/
theorem test_cli :
    let s : State := { start [0x58] 0x8000 with p := 0xFF }
    runs s [(.read, 0x8000, 0x58)]
      0x00 0x00 0x00 0xFB 0xFD 0x8001 2 = true := by decide

/-- V45.16 -/
theorem test_sei :
    let s : State := { start [0x78] 0x8000 with p := 0x20 }
    runs s [(.read, 0x8000, 0x78)]
      0x00 0x00 0x00 0x24 0xFD 0x8001 2 = true := by decide

/-- V45.17 -/
theorem test_cld :
    let s : State := { start [0xD8] 0x8000 with p := 0xFF }
    runs s [(.read, 0x8000, 0xD8)]
      0x00 0x00 0x00 0xF7 0xFD 0x8001 2 = true := by decide

/-- V45.18 -/
theorem test_sed :
    let s : State := { start [0xF8] 0x8000 with p := 0x20 }
    runs s [(.read, 0x8000, 0xF8)]
      0x00 0x00 0x00 0x28 0xFD 0x8001 2 = true := by decide

/-- V45.19 -/
theorem test_clv :
    let s : State := { start [0xB8] 0x8000 with p := 0xFF }
    runs s [(.read, 0x8000, 0xB8)]
      0x00 0x00 0x00 0xBF 0xFD 0x8001 2 = true := by decide

/-- V45.23 -/
theorem test_nop :
    let s : State := { start [0xEA] 0x8000 with a := 0x12, x := 0x34, y := 0x56, p := 0xE5, sp := 0x80 }
    runs s [(.read, 0x8000, 0xEA)]
      0x12 0x34 0x56 0xE5 0x80 0x8001 2 = true := by decide

/-- V45.25 -/
theorem test_brk_1 :
    let s : State := { start [] 0x8000 with rom := [(0x7FFF, 0x90)], p := 0xE3 }
    runs s [(.read, 0x8000, 0x00), (.write, 0x01FD, 0x80), (.write, 0x01FC, 0x02), (.write, 0x01FB, 0xF3), (.read, 0xFFFE, 0x00), (.read, 0xFFFF, 0x90)]
      0x00 0x00 0x00 0xE7 0xFA 0x9000 7 = true := by decide

/-- V45.26 -/
theorem test_brk_2 :
    let s : State := { start [] 0x8000 with rom := [(0x7FFE, 0x34), (0x7FFF, 0x12)], sp := 0x01 }
    runs s [(.read, 0x8000, 0x00), (.write, 0x0101, 0x80), (.write, 0x0100, 0x02), (.write, 0x01FF, 0x34), (.read, 0xFFFE, 0x34), (.read, 0xFFFF, 0x12)]
      0x00 0x00 0x00 0x34 0xFE 0x1234 7 = true := by decide

/-- V45.29 -/
theorem test_rti :
    let s : State := { start [0x40] 0x8000 with sp := 0xFA, ram := [(0x01FB, 0xFF), (0x01FC, 0x34), (0x01FD, 0x12)] }
    runs s [(.read, 0x8000, 0x40), (.read, 0x01FB, 0xFF), (.read, 0x01FC, 0x34), (.read, 0x01FD, 0x12)]
      0x00 0x00 0x00 0xEF 0xFD 0x1234 6 = true := by decide

/-- V45.34 -/
theorem test_unknown_1 :
    let s : State := { start [0x0C, 0x34, 0x12] 0x8000 with a := 0x11, x := 0x22, y := 0x33 }
    runs s [(.read, 0x8000, 0x0C)]
      0x11 0x22 0x33 0x34 0xFD 0x8001 2 = true := by decide

/-- V45.32 -/
theorem test_unknown_2 :
    let s : State := { start [0xFF] 0x8000 with a := 0x11, x := 0x22, y := 0x33 }
    runs s [(.read, 0x8000, 0xFF)]
      0x11 0x22 0x33 0x34 0xFD 0x8001 2 = true := by decide

/-- V40.21: the operand bytes of an instruction at the top of the address space wrap to `0x0000`. -/
theorem test_pc_wraps :
    let s := { start [0xAD, 0x10] 0xFFFE with ram := [(0x0010, 0x77)] }
    runs s [(.read, 0xFFFE, 0xAD), (.read, 0xFFFF, 0x10), (.read, 0x0000, 0x00), (.read, 0x0010, 0x77)]
      0x77 0x00 0x00 0x34 0xFD 0x0001 4 = true := by decide

/-! ### Configurations and launch parameters other than the defaults (R6) -/

/-- V44.28: with `BRANCH_CROSS_EXTRA` 0 a taken branch costs 3 always. -/
theorem test_branch_cross_extra :
    let s : State := { start [0xF0, 0x02] 0x80FD with p := 0x36, config := { branchCrossExtra := 0 } }
    runs s [(.read, 0x80FD, 0xF0), (.read, 0x80FE, 0x02)]
      0x00 0x00 0x00 0x36 0xFD 0x8101 3 = true := by decide

/-- `BRK_VECTOR` at `0x8010`: the example of R192 with the vector there. -/
theorem test_brk_vector :
    let s : State :=
      { State.reset with rom := [(0x0011, 0x90)], pc := 0x8000, config := { brkVector := 0x8010 } }
    runs s [(.read, 0x8000, 0x00), (.write, 0x01FD, 0x80), (.write, 0x01FC, 0x02), (.write, 0x01FB, 0x34),
        (.read, 0x8010, 0x00), (.read, 0x8011, 0x90)]
      0x00 0x00 0x00 0x34 0xFA 0x9000 7 = true := by decide

/-- `RESET_S` 0xFF. -/
theorem test_reset_s : ({ State.reset with config := { resetS := 0xFF } } : State).applyReset.sp = 0xFF := rfl

/-- An opcode table that differs from the default one: bytes `1A` and `3A` are NOP at two costs, `EA` is unknown, `EB` is
SBC immediate a second time (D1, D2, D3), and `07`, `17`, `27`, `37`, `47` have modes their mnemonics lack by default. -/
def otherTable : Configuration :=
  { opcodes :=
      [⟨0x1A, .nop, .imp, 2, .none⟩, ⟨0x3A, .nop, .imp, 3, .none⟩, ⟨0xEA, .unknown, .unk, 2, .none⟩,
       ⟨0xEB, .sbc, .imm, 2, .none⟩, ⟨0x07, .stx, .aby, 5, .pageCross⟩, ⟨0x17, .inc, .acc, 2, .none⟩,
       ⟨0x27, .lda, .ind, 7, .none⟩, ⟨0x37, .beq, .abs, 3, .branch⟩, ⟨0x47, .nop, .abs, 4, .none⟩] }

/-- The definition of a byte with a row, of one without, and of one the table makes unknown (R63). -/
theorem test_opcode_table :
    otherTable.wellFormed = true ∧ otherTable.definition 0x3A = ⟨0x3A, .nop, .imp, 3, .none⟩ ∧
    otherTable.definition 0xBD = ⟨0xBD, .lda, .abx, 4, .pageCross⟩ ∧
    otherTable.definition 0xEA = ⟨0xEA, .unknown, .unk, 2, .none⟩ ∧ Config.default.definition 0x02 = ⟨0x02, .unknown, .unk, 2, .none⟩ := by
  decide

/-- Two bytes of one mnemonic and mode at two costs, and a byte of the default table made unknown (R194). -/
theorem test_opcode_costs :
    runs { start [0x1A] 0x8000 with config := otherTable } [(.read, 0x8000, 0x1A)] 0 0 0 0x34 0xFD 0x8001 2 = true ∧
    runs { start [0x3A] 0x8000 with config := otherTable } [(.read, 0x8000, 0x3A)] 0 0 0 0x34 0xFD 0x8001 3 = true ∧
    runs { start [0xEA] 0x8000 with config := otherTable } [(.read, 0x8000, 0xEA)] 0 0 0 0x34 0xFD 0x8001 2 = true := by
  decide

/-- The behaviour of SBC on its byte (R131: `50 - 10` with no borrow), and of STX in ABY (R93) with the page cross of R99. -/
theorem test_opcode_modes_1 :
    runs { start [0xEB, 0x10] 0x8000 with config := otherTable, a := 0x50, p := 0x35 }
      [(.read, 0x8000, 0xEB), (.read, 0x8001, 0x10)] 0x40 0 0 0x35 0xFD 0x8002 2 = true ∧
    runs { start [0x07, 0xFF, 0x02] 0x8000 with config := otherTable, x := 0x5A, y := 0x01 }
      [(.read, 0x8000, 0x07), (.read, 0x8001, 0xFF), (.read, 0x8002, 0x02), (.write, 0x0300, 0x5A)]
      0 0x5A 0x01 0x34 0xFD 0x8003 6 = true := by decide

/-- INC on A (R86, R139), LDA in IND (R94, R110), BEQ to an absolute address (R91, R166), NOP past its operand bytes. -/
theorem test_opcode_modes_2 :
    runs { start [0x17] 0x8000 with config := otherTable, a := 0xFF } [(.read, 0x8000, 0x17)]
      0x00 0 0 0x36 0xFD 0x8001 2 = true ∧
    runs { start [0x27, 0xFF, 0x02] 0x8000 with
        config := otherTable, ram := [(0x0200, 0x03), (0x02FF, 0x10), (0x0310, 0x77)] }
      [(.read, 0x8000, 0x27), (.read, 0x8001, 0xFF), (.read, 0x8002, 0x02), (.read, 0x02FF, 0x10), (.read, 0x0200, 0x03),
        (.read, 0x0310, 0x77)] 0x77 0 0 0x34 0xFD 0x8003 7 = true ∧
    runs { start [0x37, 0x34, 0x12] 0x8000 with config := otherTable, p := 0x36 }
      [(.read, 0x8000, 0x37), (.read, 0x8001, 0x34), (.read, 0x8002, 0x12)] 0 0 0 0x36 0xFD 0x1234 4 = true ∧
    runs { start [0x47, 0x34, 0x12] 0x8000 with config := otherTable }
      [(.read, 0x8000, 0x47), (.read, 0x8001, 0x34), (.read, 0x8002, 0x12)] 0 0 0 0x34 0xFD 0x8003 4 = true := by decide

/-- The mnemonic of an unknown opcode in the audit record, by default and with another `SENTINEL_MNEMONIC`. -/
theorem test_sentinel :
    (∃ t au, step (start [0x02] 0x8000) = .next t ∧ t.audit = some au ∧ au.opcode = 0x02 ∧ au.mnemonic = "???") ∧
    ∃ t au, step { start [0x02] 0x8000 with config := { sentinelMnemonic := "UNK" } } = .next t ∧
      t.audit = some au ∧ au.opcode = 0x02 ∧ au.mnemonic = "UNK" :=
  ⟨⟨_, _, rfl, rfl, rfl, rfl⟩, ⟨_, _, rfl, rfl, rfl, rfl⟩⟩

/-- A device with the register of R34's example: a read of `0x2002` gives the flag and clears it. -/
def flagDevice : State :=
  { State.reset with
    regWindow := [0x2002]
    dev := [0x80]
    device := { reads := [⟨[0x80], 0x2002, 0x80, [0x00]⟩, ⟨[0x00], 0x2002, 0x00, [0x00]⟩]
                writes := [⟨[0x00], 0x2002, 0x01, [0x80]⟩] } }

/-- Calling the read twice yields different results; a peek changes nothing (R34, R36, R231). -/
theorem test_device :
    let s1 := memRead flagDevice 0x2002
    let s2 := memRead s1.2 0x2002
    memPeek flagDevice 0x2002 = 0x80 ∧ s1.1 = 0x80 ∧ s2.1 = 0x00 ∧ (memWrite s2.2 0x2002 0x01).dev = [0x80] ∧
    shows s2.2.log [(.read, 0x2002, 0x80), (.read, 0x2002, 0x00)] := by decide

/-- A mapper whose bank a write selects (R39): the write alters the next read. -/
theorem test_mapper :
    let m : MapperDevice :=
      { reads := [⟨[0], 0x8000, 0x11⟩, ⟨[1], 0x8000, 0x22⟩], writes := [⟨[0], 0xC000, 0x01, [1]⟩] }
    let s : State := { State.reset with mapper := .custom m [0] }
    (memRead s 0x8000).1 = 0x11 ∧ (memRead (memWrite s 0xC000 0x01) 0x8000).1 = 0x22 := by decide

/-- The mapper of the witness below, in its bank 1: the first row is that of another bank. -/
def bankedMapper : State :=
  { State.reset with
    mapper := .custom
      { reads := [⟨[0], 0x8000, 0x11⟩, ⟨[1], 0x8000, 0x22⟩], writes := [⟨[0], 0xC000, 0x01, [1]⟩, ⟨[1], 0xFFFF, 0x00, [0]⟩] }
      [1] }

/-! ### Witnesses: what meets the hypotheses of each statement that has any -/

/-- The outcome is a next state. -/
def isNext : Outcome → Bool
  | .next _ => true
  | _ => false

theorem exists_next {o : Outcome} (h : isNext o = true) : ∃ t, o = .next t := by
  cases o with
  | next t => exact ⟨t, rfl⟩
  | fault f => cases h
  | refused r => cases h

/-- A register window of two addresses, the first and the last it may hold (R34). -/
def windowed : State := { State.reset with regWindow := [0x2000, 0x7FFF] }

theorem witness_DecodeOfEncode : (Instr.ldaAbs 0xFFFF).WellFormed ∧ (Instr.unknown 0xFF).WellFormed := by decide

theorem witness_EncodeOfDecode : decode [0xAD, 0xFF, 0xFF, 0x00] = .ok (.ldaAbs 0xFFFF, [0x00]) := rfl

theorem witness_UnknownOpcodesAreTheListed : (0x02 : Byte) ∈ unknownOpcodes ∧ (0xFF : Byte) ∈ unknownOpcodes := by decide

/-- One state for each length: `NOP`, `LDA #`, `LDA` absolute; and a byte with a row. -/
theorem witness_StepRunsDecodedInstruction :
    (∀ s ∈ [start [0xEA] 0x8000, start [0xA9, 0x05] 0x8000, start [0xAD, 0x34, 0x12] 0xFFFD],
      let f1 := fetch8 (beginStep s)
      let f2 := fetch8 f1.2
      let f3 := fetch8 f2.2
      s.config = Config.default ∧ s.config.row f1.1 = none ∧ (decode [f1.1, f2.1, f3.1]).isOk = true) ∧
    (let s := { start [0x37] 0x8000 with config := otherTable }
     s.config.row (fetch8 (beginStep s)).1 = some ⟨0x37, .beq, .abs, 3, .branch⟩) := by decide

/-- For each clause a row that meets it: a mode of every kind, a behaviour on an address, on A and on no operand, a branch
taken and one not, INC and DEC of A. -/
theorem witness_ConfiguredRowRunsItsMnemonic :
    (let modeKind (m : Mode) : Nat := if m = .imm then 0 else m.length
     modeKind .imm = 0 ∧ modeKind .acc = 1 ∧ modeKind .rel = 2 ∧ modeKind .ind = 3) ∧
    (Instr.staAbs (resolveMode .aby State.reset).addr).mnemonic = .sta ∧
    (Instr.staAbs (resolveMode .aby State.reset).addr).operand = .abs (resolveMode .aby State.reset).addr ∧
    (Instr.rorAcc.mnemonic = .ror ∧ Instr.rorAcc.operand = .acc) ∧ (Instr.rti.mnemonic = .rti ∧ Instr.rti.operand = .imp) ∧
    ((Instr.unknown 0x02).mnemonic = .unknown ∧ (Instr.unknown 0x02).operand = .unk) ∧
    BranchTaken .bne (resolveMode .abs State.reset).state.p ∧ ¬ BranchTaken .beq (resolveMode .abs State.reset).state.p ∧
    otherTable.definition 0x17 = ⟨0x17, .inc, .acc, 2, .none⟩ :=
  ⟨by decide, by decide, by decide, by decide, by decide, by decide, by unfold BranchTaken; decide,
    by unfold BranchTaken; decide, by decide⟩

/-- Two rows of the default table, a step that runs the first and one that runs neither. -/
theorem witness_RowsOfTheDefaultTableChangeNothing :
    (∀ d ∈ [(⟨0xEA, .nop, .imp, 2, .none⟩ : InstructionDef), ⟨0xBD, .lda, .abx, 4, .pageCross⟩],
      d = defaultDefinition d.opcode) ∧
    ∀ s ∈ [start [0xEA] 0x8000, start [0x60] 0x8000],
      isNext (step { s with config := { s.config with opcodes := [] } }) = true := by decide

theorem witness_FetchReadsBytesAtPc :
    IsMemory State.reset State.reset.pc ∧ IsMemory State.reset (State.reset.pc + 1) ∧
    IsMemory State.reset (State.reset.pc + 2) ∧ IsMemory windowed 0x1FFF ∧ IsMemory windowed 0x8000 :=
  ⟨.inl (by decide), .inl (by decide), .inl (by decide), .inl (by decide), .inr (by decide)⟩

/-- A step from reset that completes: the hypothesis of every statement over `step s = .next t`. -/
theorem witness_step : ∃ t, step State.reset = .next t := exists_next (by decide)

theorem witness_inv_reset : Inv State.reset :=
  ⟨by decide, rfl, rfl, rfl, rfl, rfl, rfl, fun _ => rfl, rfl, rfl, by decide⟩

theorem witness_StepKeepsInv : Inv State.reset ∧ ∃ t, step State.reset = .next t := ⟨witness_inv_reset, witness_step⟩

/-- With the fixed-ROM mapper a buffer of either length, with another mapper one of any length. -/
theorem witness_LaunchFromRom :
    (∃ s, launch { rom := [], ramInit := List.replicate 2048 0, mapper := .custom {} [1] } = some s) ∧
    ∀ n, n = 16384 ∨ n = 32768 →
      ∃ s, launch { rom := List.replicate n 0, ramInit := List.replicate 2048 0, mapper := .fixedRom,
                    regWindow := [0x2000, 0x7FFF], dev := [] } = some s := by
  refine ⟨⟨_, if_pos (by simp only [Launch.wellFormed, List.length_replicate]; decide)⟩, ?_⟩
  intro n hn
  refine ⟨_, if_pos ?_⟩
  simp only [Launch.wellFormed, List.length_replicate, Bool.and_eq_true, Bool.or_eq_true, decide_eq_true_eq]
  refine ⟨⟨⟨.inr ?_, trivial⟩, by decide⟩, by decide⟩
  rcases hn with rfl | rfl <;> decide

/-- Launches it refuses (R42: a buffer of another length; R34: a window address outside `0x2000` to `0x7FFF`). -/
theorem test_launch_refused :
    launch { rom := [], ramInit := [], mapper := .fixedRom, regWindow := [], dev := [] } = none ∧
    windowAddr 0x1FFF = false ∧ windowAddr 0x8000 = false ∧ windowAddr 0x2000 = true ∧ windowAddr 0x7FFF = true := by
  decide

/-- The configurations the model allows: the default, the other branch convention (R6), no third one; no row that can cost
8 cycles or costs 1 (R99), with more micro-ops than cycles (R45), in a mode without an address for a behaviour that needs
one, or with the sentinel at another cost (R67). -/
theorem test_configuration_checked :
    let allows (d : InstructionDef) : Bool := ({ opcodes := [d] } : Configuration).wellFormed
    Config.default.wellFormed = true ∧ ({ branchCrossExtra := 0 } : Configuration).wellFormed = true ∧
    ({ branchCrossExtra := 2 } : Configuration).wellFormed = false ∧
    allows ⟨0xBD, .lda, .abx, 6, .pageCross⟩ = true ∧ allows ⟨0xBD, .lda, .abx, 7, .pageCross⟩ = false ∧
    allows ⟨0xEA, .nop, .imp, 1, .none⟩ = false ∧ allows ⟨0xBD, .lda, .abx, 3, .pageCross⟩ = false ∧
    allows ⟨0x02, .sta, .imp, 2, .none⟩ = false ∧ allows ⟨0x02, .unknown, .unk, 3, .none⟩ = false := by decide

/-- Both kinds of mapper. -/
theorem witness_StepKeepsLaunchParameters :
    (State.reset.mapper = .fixedRom ∧ ∃ t, step State.reset = .next t) ∧
    ∃ t, step { State.reset with mapper := .custom {} [] } = .next t :=
  ⟨⟨rfl, witness_step⟩, exists_next (by decide)⟩

/-- The premises of the step costs and of the micro-op counts. -/
theorem witness_StepCostsTwoToSeven :
    State.reset.config.wellFormed = true ∧ (∃ t, step State.reset = .next t) ∧
    (let s := { start [0x27] 0x8000 with config := otherTable }
     s.config.wellFormed = true ∧ ∃ t, step s = .next t) :=
  ⟨rfl, witness_step, by decide, exists_next (by decide)⟩

/-- The byte at `PC` without a row, and with one in an allowed configuration. -/
theorem witness_MicroOpsNumberedFromOpcodeFetch :
    (State.reset.config.row (memPeek State.reset State.reset.pc) = none ∧ ∃ t, step State.reset = .next t) ∧
    (let s := { start [0x47] 0x8000 with config := otherTable }
     s.config.row (memPeek s s.pc) = some ⟨0x47, .nop, .abs, 4, .none⟩ ∧ s.config.wellFormed = true ∧ ∃ t, step s = .next t) :=
  ⟨⟨rfl, witness_step⟩, by decide, by decide, exists_next (by decide)⟩

theorem witness_DecimalAndInterruptFlagsAreInert :
    Instr.sed.mnemonic ≠ .php ∧ Instr.sed.mnemonic ≠ .brk ∧ ∃ t, exec .sed State.reset = .next t :=
  ⟨by decide, by decide, exists_next (by decide)⟩

theorem witness_RamIsMirrored : (0x0000 : Word).toNat < 0x2000 ∧ (0x1FFF : Word).toNat < 0x2000 := by decide

/-- Both branches of the read: the same cell through another mirror, another cell, and an address beyond RAM. -/
theorem witness_RamWriteIsReadBack :
    State.reset.ram.wf = true ∧ (0x1FFF : Word).toNat < 0x2000 ∧ IsMemory State.reset 0x07FF ∧
    IsMemory State.reset 0x0000 ∧ IsMemory State.reset 0x8000 ∧ (0x07FF : Word).toNat % 2048 = (0x1FFF : Word).toNat % 2048 ∧
    (0x0000 : Word).toNat % 2048 ≠ (0x1FFF : Word).toNat % 2048 :=
  ⟨rfl, by decide, .inl (by decide), .inl (by decide), .inr (by decide), by decide, by decide⟩

theorem witness_UnmappedAccess :
    (0x2000 ≤ (0x2000 : Word).toNat ∧ (0x2000 : Word).toNat < 0x8000 ∧ (0x2000 : Word) ∉ State.reset.regWindow) ∧
    (0x2000 ≤ (0x7FFF : Word).toNat ∧ (0x7FFF : Word).toNat < 0x8000 ∧ (0x7FFF : Word) ∉ State.reset.regWindow) := by
  decide

/-- Both lengths of buffer, at the ends of the window. -/
theorem witness_FixedRomWindow :
    (rom16.mapper = .fixedRom ∧ rom16.romLength = 16384 ∧ rom32.mapper = .fixedRom ∧ rom32.romLength = 32768) ∧
    (0x8000 ≤ (0x8000 : Word).toNat ∧ (0x8000 : Word) ∉ rom16.regWindow ∧ (0x8000 : Word) ∉ rom32.regWindow) ∧
    (0x8000 ≤ (0xFFFF : Word).toNat ∧ (0xFFFF : Word) ∉ rom16.regWindow ∧ (0xFFFF : Word) ∉ rom32.regWindow) := by decide

/-- Another mapper: a read and a write whose row stands behind one that does not match, and addresses at the two ends of
the window that no row matches. -/
theorem witness_FixedRomWindow_custom :
    ∃ m, bankedMapper.mapper = .custom m [1] ∧ (∀ addr, addr ∉ bankedMapper.regWindow) ∧
      FirstRow (fun r : MapperReadRow => r.ms = [1] ∧ r.addr = 0x8000) m.reads ⟨[1], 0x8000, 0x22⟩ ∧
      (∀ r ∈ m.reads, ¬ (r.ms = [1] ∧ r.addr = 0xFFFF)) ∧
      FirstRow (fun r : MapperWriteRow => r.ms = [1] ∧ r.addr = 0xFFFF ∧ r.value = 0x00) m.writes ⟨[1], 0xFFFF, 0x00, [0]⟩ ∧
      ∀ r ∈ m.writes, ¬ (r.ms = [1] ∧ r.addr = 0x8000 ∧ r.value = 0x00) :=
  ⟨_, rfl, fun _ => List.not_mem_nil, ⟨[_], [], rfl, by decide, by decide⟩, by decide, ⟨[_], [], rfl, by decide, by decide⟩,
    by decide⟩

/-- The device of `flagDevice` with its flag read away: the row of that state is the second one of its reads. -/
def flagRead : State := { flagDevice with dev := [0x00] }

/-- A row that matches behind one that does not, one that matches first, and accesses no row matches, with rows and
without. -/
theorem witness_RegisterWindowAccess :
    FirstRow (fun r : DevReadRow => r.dev = flagRead.dev ∧ r.addr = 0x2002) flagRead.device.reads
      ⟨[0x00], 0x2002, 0x00, [0x00]⟩ ∧
    FirstRow (fun r : DevWriteRow => r.dev = flagRead.dev ∧ r.addr = 0x2002 ∧ r.value = 0x01) flagRead.device.writes
      ⟨[0x00], 0x2002, 0x01, [0x80]⟩ ∧
    (∀ r ∈ flagRead.device.writes, ¬ (r.dev = flagRead.dev ∧ r.addr = 0x2002 ∧ r.value = 0x00)) ∧
    (∀ r ∈ ({ flagDevice with dev := [] } : State).device.reads, ¬ (r.dev = [] ∧ r.addr = 0x2002)) ∧
    (0x2000 ≤ (0x2002 : Word).toNat ∧ (0x2002 : Word) ∈ flagRead.regWindow) ∧
    windowed.device.reads = [] ∧ windowed.device.writes = [] ∧
    (0x2000 ≤ (0x2000 : Word).toNat ∧ (0x2000 : Word) ∈ windowed.regWindow) ∧
    (0x2000 ≤ (0x7FFF : Word).toNat ∧ (0x7FFF : Word) ∈ windowed.regWindow) :=
  ⟨⟨[_], [], rfl, by decide, by decide⟩, ⟨[], [], rfl, by decide, by decide⟩, by decide, by decide, by decide, rfl, rfl,
    by decide, by decide⟩

theorem witness_ReadRecordsAndKeeps : IsMemory windowed 0x1FFF ∧ IsMemory windowed 0x2001 ∧ ¬ IsMemory windowed 0x2000 :=
  ⟨.inl (by decide), .inr (by decide), by unfold IsMemory; decide⟩

/-- NOP and the unknown bytes at the two ends of the list, each where the next step fetches; and rows that give NOP and the
sentinel. -/
theorem witness_NopAndUnknownSteps :
    (∀ op ∈ [(0xEA : Byte), 0x02, 0xFF],
      let s := start [op] 0x8000
      s.config.row (memPeek s s.pc) = none ∧ (memPeek s s.pc = 0xEA ∨ memPeek s s.pc ∈ unknownOpcodes)) ∧
    ∀ op ∈ [(0x3A : Byte), 0xEA],
      let d := definitionAtPc { start [op] 0x8000 with config := otherTable }
      (d.mnemonic = .nop ∨ d.mnemonic = .unknown) ∧ d.mode.length = 1 ∧ d.penalty = .none := by decide

/-- RAM in its one form: what JumpToSubroutine, Pushes, PullAfterPush, BreakTakesSoftwareInterrupt and StackRoundTrips ask
of a state; `S` at its two ends. -/
theorem witness_stack : ({ State.reset with sp := 0x00 } : State).ram.wf = true ∧
    ({ State.reset with sp := 0xFF, ram := [(0x0100, 0x01), (0x01FF, 0x02)] } : State).ram.wf = true := by decide

theorem witness_IndirectPointerWrapsInPage :
    (0x0200 : Word).toNat = (0x02FF : Word).toNat / 256 * 256 + ((0x02FF : Word).toNat + 1) % 256 ∧
    (0x0300 : Word).toNat ≠ (0x02FF : Word).toNat / 256 * 256 + ((0x02FF : Word).toNat + 1) % 256 := by decide

theorem witness_OperandByte :
    (∃ v, Operand.imm 0xFF = .imm v) ∧
    ∀ o ∈ [Operand.zp 0xFF, .zpx 0xFF, .zpy 0xFF, .abs 0xFFFF, .abx 0xFFFF, .aby 0xFFFF, .izx 0xFF, .izy 0xFF],
      o.mode ∈ [.zp, .zpx, .zpy, .abs, .abx, .aby, .izx, .izy] := ⟨⟨_, rfl⟩, by decide⟩

theorem witness_Loads :
    (Instr.ldaIzy 0xFF).mnemonic = .lda ∧ (Instr.ldxImm 0x80).mnemonic = .ldx ∧ (Instr.ldyAbx 0xFFFF).mnemonic = .ldy := by
  decide

theorem witness_Stores :
    (Instr.staAbs 0x1FFF).mnemonic = .sta ∧ (Instr.stxZpy 0xFF).mnemonic = .stx ∧ (Instr.styZp 0xFF).mnemonic = .sty ∧
    State.reset.ram.wf = true ∧ (resolve (Instr.staAbs 0x1FFF).operand State.reset).addr.toNat < 0x2000 ∧
    (resolve (Instr.stxZpy 0xFF).operand State.reset).addr.toNat < 0x2000 ∧
    (resolve (Instr.styZp 0xFF).operand State.reset).addr.toNat < 0x2000 := by decide

/-- One instruction of each mnemonic the statement names, each of which completes. -/
theorem witness_StoredByteFrame :
    State.reset.ram.wf = true ∧
    ∀ i ∈ [Instr.staAbs 0x1FFF, .stxZp 0x00, .styAbs 0x8000, .incAbx 0xFFFF, .decZpx 0xFF, .aslAbs 0x2000, .lsrZp 0x10,
        .rolAbx 0x07FF, .rorZpx 0x80],
      i.operand.mode ≠ .acc ∧ i.mnemonic ∈ [.sta, .stx, .sty, .inc, .dec, .asl, .lsr, .rol, .ror] ∧
      isNext (exec i State.reset) = true := by decide

theorem witness_AddWithCarry : (Instr.adcImm 0xFF).mnemonic = .adc ∧ (Instr.adcIzy 0xFF).mnemonic = .adc := by decide

theorem witness_SubtractWithBorrow : (Instr.sbcImm 0xFF).mnemonic = .sbc ∧ (Instr.sbcAby 0xFFFF).mnemonic = .sbc := by decide

theorem witness_LogicOperations :
    (Instr.andImm 0xFF).mnemonic = .and ∧ (Instr.oraIzx 0xFF).mnemonic = .ora ∧ (Instr.eorAbx 0xFFFF).mnemonic = .eor := by
  decide

theorem witness_Compares :
    (Instr.cmpIzy 0xFF).mnemonic = .cmp ∧ (Instr.cpxZp 0xFF).mnemonic = .cpx ∧ (Instr.cpyAbs 0xFFFF).mnemonic = .cpy := by
  decide

theorem witness_BitTest : (Instr.bitZp 0xFF).mnemonic = .bit ∧ (Instr.bitAbs 0xFFFF).mnemonic = .bit := by decide

theorem witness_MemoryIncrementDecrement :
    (Instr.incAbx 0x1FFF).mnemonic = .inc ∧ (Instr.decZp 0x00).mnemonic = .dec ∧ State.reset.ram.wf = true ∧
    (resolve (Instr.incAbx 0x1FFF).operand State.reset).addr.toNat < 0x2000 ∧
    (resolve (Instr.decZp 0x00).operand State.reset).addr.toNat < 0x2000 := by decide

theorem witness_MemoryShifts :
    (∀ i ∈ [Instr.aslZp 0xFF, .lsrAbs 0x1FFF, .rolZpx 0x00, .rorAbx 0x1FFF],
      i.operand.mode ≠ .acc ∧ (resolve i.operand State.reset).addr.toNat < 0x2000) ∧
    (Instr.aslZp 0xFF).mnemonic = .asl ∧ (Instr.lsrAbs 0x1FFF).mnemonic = .lsr ∧
    (Instr.rolZpx 0x00).mnemonic = .rol ∧ (Instr.rorAbx 0x1FFF).mnemonic = .ror ∧ State.reset.ram.wf = true := by decide

theorem witness_Jumps : (Instr.jmpAbs 0xFFFF).mnemonic = .jmp ∧ (Instr.jmpInd 0x02FF).mnemonic = .jmp := by decide

/-- Each branch condition holds in one state and fails in another. -/
theorem witness_Branches :
    ∀ f ∈ [Flag.c, .z, .n, .v], getFlag 0x34 f = false ∧ getFlag 0xF7 f = true := by decide

theorem witness_BreakTakesSoftwareInterrupt :
    State.reset.ram.wf = true ∧ State.reset.config = Config.default ∧
    ({ State.reset with config := { brkVector := 0x01FC } } : State).ram.wf = true := ⟨rfl, rfl, rfl⟩

/-- Both values of `BRANCH_CROSS_EXTRA`. -/
theorem witness_CycleCost :
    State.reset.config = Config.default ∧ State.reset.config.branchCrossExtra ≤ 1 ∧
    ({ branchCrossExtra := 0 } : Configuration).branchCrossExtra ≤ 1 := by decide

/-- The four pairs, each from one state. -/
theorem witness_StackRoundTrips :
    State.reset.ram.wf = true ∧
    ∀ p ∈ [(Instr.jsr 0xFFFF, Instr.rts), (.brk, .rti), (.php, .plp), (.pha, .pla)],
      (match exec p.1 State.reset with | .next t => isNext (exec p.2 t) | _ => false) = true := by decide

end Sys2Proof.Tests
end

section
/-!
PROOFS. What no operation of the machine changes (R10, R40, R63): the parameters given at launch. They are one
value, `State.parameters`, so that "keeps the launch parameters" is one equation, proved once per operation and then for
the step.
-/

namespace Sys2Proof.Machine

/-- What is given at launch and stays: the configuration, the ROM buffer, the register window with its device, and the
functions of a mapper other than the fixed-ROM one. -/
structure Parameters where
  config : Configuration
  rom : Memory
  romLength : Nat
  regWindow : List Word
  device : Device
  mapper : Option MapperDevice

/-- The functions of a mapper without its state; the fixed-ROM mapper has none of its own (R25). -/
def Mapper.functions : Mapper → Option MapperDevice
  | .fixedRom => none
  | .custom m _ => some m

/-- The launch parameters a state carries. -/
def State.parameters (s : State) : Parameters where
  config := s.config
  rom := s.rom
  romLength := s.romLength
  regWindow := s.regWindow
  device := s.device
  mapper := s.mapper.functions

theorem Mapper.functions_eq_none {m : Mapper} : m.functions = none ↔ m = .fixedRom := by
  cases m <;> simp [Mapper.functions]

theorem Mapper.functions_eq_some {m : Mapper} {d : MapperDevice} :
    m.functions = some d ↔ ∃ ms, m = .custom d ms := by
  cases m <;> simp [Mapper.functions]

/-- A mapper write changes at most the mapper's state (R39, R40). -/
theorem mapperWrite_functions (s : State) (addr : Word) (v : Byte) :
    (s.mapperWrite addr v).functions = s.mapper.functions := by
  unfold State.mapperWrite
  split
  · next h => rw [h]
  · next h => rw [h]; rfl

/-! ### The bus and the stack -/

variable (s : State)

@[simp] theorem setP_parameters (v : Byte) : (s.setP v).parameters = s.parameters := rfl

@[simp] theorem setPc_parameters (v : Word) : (s.setPc v).parameters = s.parameters := rfl

@[simp] theorem memRead_parameters (addr : Word) : (memRead s addr).2.parameters = s.parameters := rfl

@[simp] theorem memWrite_parameters (addr : Word) (v : Byte) : (memWrite s addr v).parameters = s.parameters := by
  unfold memWrite State.routeWrite
  repeat' split
  · rfl
  · rfl
  · exact congrArg (Parameters.mk s.config s.rom s.romLength s.regWindow s.device) (mapperWrite_functions s addr v)
  · rfl

@[simp] theorem push_parameters (v : Byte) : (push s v).parameters = s.parameters :=
  memWrite_parameters s (stackAddr s.sp) v

@[simp] theorem pull_parameters : (pull s).2.parameters = s.parameters := rfl

@[simp] theorem pushWord_parameters (w : Word) : (pushWord s w).parameters = s.parameters := by
  simp only [pushWord, push_parameters]

@[simp] theorem pullWord_parameters : (pullWord s).2.parameters = s.parameters := by
  simp only [pullWord, pull_parameters]

@[simp] theorem readWord_parameters (lo hi : Word) : (readWord s lo hi).2.parameters = s.parameters := by
  simp only [readWord, memRead_parameters]

theorem softwareInterrupt_parameters (ret : Word) : (softwareInterrupt s ret).parameters = s.parameters := by
  simp only [softwareInterrupt, setPc_parameters, readWord_parameters, setP_parameters, push_parameters,
    pushWord_parameters]

theorem returnFromInterrupt_parameters : (returnFromInterrupt s).parameters = s.parameters := by
  simp only [returnFromInterrupt, setPc_parameters, pullWord_parameters, setP_parameters, pull_parameters]

/-! ### Fetch and resolver -/

theorem beginStep_parameters : (beginStep s).parameters = s.parameters := rfl

theorem endStep_parameters (op : Byte) (m : Mnemonic) : (endStep op m s).parameters = s.parameters := rfl

theorem fetch8_parameters : (fetch8 s).2.parameters = s.parameters := rfl

theorem resolveMode_parameters (mode : Mode) : (resolveMode mode s).state.parameters = s.parameters := by
  obtain ⟨pc, d, l, k, h⟩ := resolveMode_state mode s
  rw [h]; rfl

/-! ### The behaviours -/

theorem readAt_parameters {f : Byte → State → State} (hf : ∀ m t, (f m t).parameters = t.parameters) (r : Resolved) :
    (readAt f r).parameters = r.state.parameters := hf ..

theorem modifyA_parameters {f : Byte → State → Byte × State} (hf : ∀ m t, (f m t).2.parameters = t.parameters) :
    (modifyA f s).parameters = s.parameters := hf ..

theorem modifyAt_parameters {f : Byte → State → Byte × State} (hf : ∀ m t, (f m t).2.parameters = t.parameters)
    (r : Resolved) : (modifyAt f r).parameters = r.state.parameters :=
  (memWrite_parameters ..).trans (hf ..)

theorem modifyIn_parameters {f : Byte → State → Byte × State} (hf : ∀ m t, (f m t).2.parameters = t.parameters)
    (mode : Mode) (r : Resolved) : (modifyIn mode f r).parameters = r.state.parameters := by
  unfold modifyIn
  split
  · exact modifyA_parameters r.state hf
  · exact modifyAt_parameters hf r

theorem branchAt_parameters (cond : Bool) (r : Resolved) : (branchAt cond r).1.parameters = r.state.parameters := by
  cases cond <;> rfl

/-- No behaviour changes the launch parameters (R98), by what it does to the bus: read, store, modify, branch, push, or
only reads and registers. -/
theorem execute_parameters (m : Mnemonic) (mode : Mode) (r : Resolved) :
    (execute m mode r).1.parameters = r.state.parameters := by
  cases m with
  | lda | ldx | ldy | adc | sbc | and | ora | eor | cmp | cpx | cpy | bit =>
    exact readAt_parameters (fun _ _ => rfl) r
  | sta | stx | sty => exact memWrite_parameters ..
  | inc | dec | asl | lsr | rol | ror => exact modifyIn_parameters (fun _ _ => rfl) mode r
  | bcc | bcs | beq | bne | bmi | bpl | bvc | bvs => exact branchAt_parameters _ r
  | pha | php => exact push_parameters ..
  | jsr => exact pushWord_parameters ..
  | brk => exact softwareInterrupt_parameters ..
  | rti => exact returnFromInterrupt_parameters ..
  | _ => rfl

/-! ### The step -/

theorem runDefinition_parameters (d : InstructionDef) : (runDefinition d s).parameters = s.parameters :=
  calc (runDefinition d s).parameters
      = (execute d.mnemonic d.mode (resolveMode d.mode s)).1.parameters := rfl
    _ = (resolveMode d.mode s).state.parameters := execute_parameters ..
    _ = s.parameters := resolveMode_parameters ..

/-- Every step keeps the launch parameters (R10, R40, R63). -/
theorem step_parameters {s t : State} (h : step s = .next t) : t.parameters = s.parameters := by
  rw [step_eq] at h
  cases h
  rw [endStep_parameters, runDefinition_parameters, fetch8_parameters, beginStep_parameters]

/-- States with the same launch parameters agree in each of them. -/
theorem parameters_eq_iff {s t : State} :
    t.parameters = s.parameters ↔
      t.config = s.config ∧ t.rom = s.rom ∧ t.romLength = s.romLength ∧ t.regWindow = s.regWindow ∧
        t.device = s.device ∧ t.mapper.functions = s.mapper.functions := by
  simp only [State.parameters, Parameters.mk.injEq]

/-- Settles O19, from `step_parameters`. -/
theorem stepKeepsLaunchParameters : Obligations.StepKeepsLaunchParameters := by
  intro s t h
  obtain ⟨hconfig, hrom, hlen, hwin, hdev, hmap⟩ := parameters_eq_iff.mp (step_parameters h)
  refine ⟨hconfig, hrom, hlen, hwin, hdev, fun hs => ?_, fun m ms hs => ?_⟩
  · exact Mapper.functions_eq_none.mp (by rw [hmap, hs]; rfl)
  · exact Mapper.functions_eq_some.mp (by rw [hmap, hs]; rfl)

end Sys2Proof.Machine
end

section
/-!
PROOFS. Launch (R223, R225): which launches construction accepts, the state it builds, and where the reset vector lies.
-/

namespace Sys2Proof.Machine

/-! ### Which launches are accepted -/

theorem supportedRomLength_iff (n : Nat) : supportedRomLength n = true ↔ n = 16384 ∨ n = 32768 := decide_eq_true_iff

theorem windowAddr_iff (a : Word) : windowAddr a = true ↔ 0x2000 ≤ a.toNat ∧ a.toNat ≤ 0x7FFF := decide_eq_true_iff

/-- The launches construction accepts (R42; log entry 13). -/
theorem Launch.wellFormed_iff (l : Launch) :
    l.wellFormed = true ↔
      (l.mapper = .fixedRom → l.rom.length = 16384 ∨ l.rom.length = 32768) ∧ l.ramInit.length = 2048 ∧
        l.config.wellFormed = true ∧ ∀ w ∈ l.regWindow, 0x2000 ≤ w.toNat ∧ w.toNat ≤ 0x7FFF := by
  simp only [Launch.wellFormed, Bool.and_eq_true, Bool.or_eq_true, decide_eq_true_eq, List.all_eq_true,
    supportedRomLength_iff, windowAddr_iff, ne_eq, ← imp_iff_not_or]
  tauto

/-! ### The launch state -/

/-- What construction builds before the one `Reset` (R223, R224). -/
def Launch.built (l : Launch) : State :=
  { State.reset with
    ram := Memory.ofBytes l.ramInit
    rom := Memory.ofBytes l.rom
    romLength := l.rom.length
    mapper := l.mapper
    regWindow := l.regWindow
    device := l.device
    dev := l.dev
    config := l.config }

/-- A launch is construction and one `Reset` where it is accepted, and nothing where not (R225). -/
theorem launch_eq_some_iff {l : Launch} {s : State} :
    launch l = some s ↔ l.wellFormed = true ∧ l.built.applyReset = s := by
  unfold launch
  split
  · next h => simp only [h, true_and, Option.some_inj]; rfl
  · next h => simp [h]

theorem launch_accepts_iff (l : Launch) : (∃ s, launch l = some s) ↔ l.wellFormed = true := by
  simp only [launch_eq_some_iff, exists_and_left, exists_eq', and_true]

/-- `Reset` changes no byte a peek gives (R222). -/
theorem memPeek_applyReset (s : State) (addr : Word) : memPeek s.applyReset addr = memPeek s addr :=
  memPeek_congr rfl rfl rfl rfl rfl (.inl ⟨rfl, rfl⟩)

/-- `PC` after `Reset` is the reset vector, little-endian (R220). -/
theorem applyReset_pc_toNat (s : State) :
    s.applyReset.pc.toNat = (memPeek s.applyReset 0xFFFC).toNat + 256 * (memPeek s.applyReset 0xFFFD).toNat := by
  rw [applyReset_pc, joinBytes_toNat, Nat.add_comm, memPeek_applyReset, memPeek_applyReset]
  rfl

/-- RAM of a launch holds `RAM_INIT`, through the mirrors (R32, R223). -/
theorem Launch.built_memPeek_ram (l : Launch) {addr : Word} (h : addr.toNat < 0x2000) :
    memPeek l.built addr = l.ramInit.getD (addr.toNat % 2048) 0 :=
  (memPeek_ram _ h).trans (Memory.read_ofBytes ..)

/-! ### The reset vector in the ROM buffer -/

/-- In the cartridge window, outside the register window, the fixed-ROM mapper answers (R33, R40). -/
theorem memPeek_fixedRom {s : State} {addr : Word} (hmap : s.mapper = .fixedRom) (h : 0x8000 ≤ addr.toNat)
    (hwin : addr ∉ s.regWindow) : memPeek s addr = romRead s.rom s.romLength addr := by
  have hlt : ¬ addr.toNat < 0x2000 := by omega
  simp only [memPeek, State.route, if_neg hlt, if_neg hwin, if_pos h, State.mapperRead, hmap]

/-- The last addresses of the cartridge window are the last bytes of a buffer of either supported length (R40). -/
theorem romOffset_fromEnd {len : Nat} (hlen : len = 16384 ∨ len = 32768) {addr : Word} (h : 0xC000 ≤ addr.toNat) :
    romOffset len addr = len - (0x10000 - addr.toNat) := by
  have hlt := addr.isLt
  rw [romOffset_eq len (by omega)]
  rcases hlen with rfl | rfl
  · rw [if_pos rfl]; omega
  · rw [if_neg (by decide)]; omega

/-- What the fixed-ROM mapper of an accepted launch gives near the end of the cartridge window. -/
theorem Launch.built_memPeek_rom {l : Launch} (hwf : l.wellFormed = true) (hmap : l.mapper = .fixedRom) {addr : Word}
    (h : 0xC000 ≤ addr.toNat) :
    memPeek l.built addr = l.rom.getD (l.rom.length - (0x10000 - addr.toNat)) 0 := by
  obtain ⟨hrom, -, -, hwindow⟩ := l.wellFormed_iff.mp hwf
  have hlt := addr.isLt
  have hwin : addr ∉ l.built.regWindow := fun hw => by have := (hwindow addr hw).2; omega
  have hoff := romOffset_fromEnd (hrom hmap) h
  have hin : romOffset l.rom.length addr < l.rom.length := by rcases hrom hmap with e | e <;> omega
  calc memPeek l.built addr
      = romRead (Memory.ofBytes l.rom) l.rom.length addr := memPeek_fixedRom hmap (by omega) hwin
    _ = (Memory.ofBytes l.rom).read (romOffset l.rom.length addr) := if_pos hin
    _ = l.rom.getD (l.rom.length - (0x10000 - addr.toNat)) 0 := by rw [hoff]; exact Memory.read_ofBytes ..

/-- Settles O36, from the state `Launch.built` that construction resets. -/
theorem launchFromRom : Obligations.LaunchFromRom := by
  intro l
  refine ⟨(launch_accepts_iff l).trans l.wellFormed_iff, fun s hs => ?_⟩
  obtain ⟨hwf, rfl⟩ := launch_eq_some_iff.mp hs
  refine ⟨applyReset_pc_toNat _, fun hmap => ?_, rfl, rfl, rfl, rfl, rfl, rfl, rfl, rfl, rfl, rfl, rfl, rfl, rfl,
    Memory.read_ofBytes l.rom, rfl, rfl, fun addr h => ?_⟩
  · rw [applyReset_pc_toNat, memPeek_applyReset, memPeek_applyReset, Launch.built_memPeek_rom hwf hmap (by decide),
      Launch.built_memPeek_rom hwf hmap (by decide)]
    rfl
  · rw [memPeek_applyReset, l.built_memPeek_ram h]

end Sys2Proof.Machine
end

section
/-!
PROOFS. What every step keeps (R27): a property of states that registers, bus reads and bus writes keep is kept by every
behaviour, by one case split over the mnemonics. Its uses here: the counters, which only the ends of a step move, and the
invariant of a run.
-/

namespace Sys2Proof.Machine

/-! ### The unused bit of `P` -/

/-- Where the unused bit is set in `p`, it is set in `q` (R18). -/
structure KeepsUnused (p q : Byte) : Prop where
  unused : getFlag p .u = true → getFlag q .u = true

theorem KeepsUnused.trans {p q r : Byte} (h : KeepsUnused p q) (h' : KeepsUnused q r) : KeepsUnused p r :=
  ⟨h'.unused ∘ h.unused⟩

theorem keepsUnused_setFlag (p : Byte) {f : Flag} (hf : f ≠ .u) (b : Bool) : KeepsUnused p (setFlag p f b) :=
  ⟨fun hp => by rw [getFlag_setFlag, if_neg hf.symm, hp]⟩

theorem keepsUnused_withZN (p v : Byte) : KeepsUnused p (withZN p v) :=
  (keepsUnused_setFlag p (f := .z) (by decide) _).trans (keepsUnused_setFlag _ (f := .n) (by decide) _)

theorem keepsUnused_addWithCarry (a m p : Byte) : KeepsUnused p (addWithCarry a m p).2 :=
  ((keepsUnused_setFlag p (f := .c) (by decide) _).trans (keepsUnused_setFlag _ (f := .v) (by decide) _)).trans
    (keepsUnused_withZN ..)

theorem keepsUnused_compareFlags (r m p : Byte) : KeepsUnused p (compareFlags r m p) :=
  (keepsUnused_setFlag p (f := .c) (by decide) _).trans (keepsUnused_withZN ..)

theorem keepsUnused_bitFlags (a m p : Byte) : KeepsUnused p (bitFlags a m p) :=
  ((keepsUnused_setFlag p (f := .z) (by decide) _).trans (keepsUnused_setFlag _ (f := .v) (by decide) _)).trans
    (keepsUnused_setFlag _ (f := .n) (by decide) _)

theorem keepsUnused_shiftWith (op : Byte → Bool → Byte × Bool) (v : Byte) (s : State) :
    KeepsUnused s.p (shiftWith op v s).2.p :=
  (keepsUnused_setFlag s.p (f := .c) (by decide) _).trans (keepsUnused_withZN ..)

theorem keepsUnused_restoredStatus (p v : Byte) : KeepsUnused p (restoredStatus v) :=
  ⟨fun _ => by rw [getFlag_restoredStatus, if_pos rfl]⟩

/-! ### Properties that registers and the bus keep -/

/-- `t` is `s` but for the registers, and has the unused bit of `P` set where `s` has (R11 to R18). -/
structure OnlyRegisters (s t : State) : Prop where
  rest : t = { s with a := t.a, x := t.x, y := t.y, sp := t.sp, p := t.p, pc := t.pc }
  unused : KeepsUnused s.p t.p

/-- A property of states that registers, bus reads and bus writes keep. -/
structure Stable (P : State → Prop) : Prop where
  registers : ∀ {s t}, P s → OnlyRegisters s t → P t
  read : ∀ s addr, P s → P (memRead s addr).2
  write : ∀ s addr v, P s → P (memWrite s addr v)

section
variable {P : State → Prop} (hP : Stable P) {s : State}
include hP

theorem Stable.setPc (v : Word) (hs : P s) : P (s.setPc v) := hP.registers hs ⟨rfl, ⟨id⟩⟩

theorem Stable.setSp (v : Byte) (hs : P s) : P (s.setSp v) := hP.registers hs ⟨rfl, ⟨id⟩⟩

theorem Stable.putFlag {f : Flag} (hf : f ≠ .u) (b : Bool) (hs : P s) : P (s.putFlag f b) :=
  hP.registers hs ⟨rfl, keepsUnused_setFlag _ hf _⟩

theorem Stable.push (v : Byte) (hs : P s) : P (Machine.push s v) := hP.setSp _ (hP.write _ _ v hs)

theorem Stable.pull (hs : P s) : P (Machine.pull s).2 := hP.read _ _ (hP.setSp _ hs)

theorem Stable.pushWord (w : Word) (hs : P s) : P (Machine.pushWord s w) := hP.push _ (hP.push _ hs)

theorem Stable.pullWord (hs : P s) : P (Machine.pullWord s).2 := hP.pull (hP.pull hs)

theorem Stable.readWord (lo hi : Word) (hs : P s) : P (Machine.readWord s lo hi).2 := hP.read _ hi (hP.read _ lo hs)

/-- The trap entry pushes, sets I and reads its vector (R201). -/
theorem Stable.softwareInterrupt (ret : Word) (hs : P s) : P (Machine.softwareInterrupt s ret) := by
  have pushed : P (Machine.push (Machine.pushWord s ret) (pushedStatus s.p)) := hP.push _ (hP.pushWord ret hs)
  have flagged := hP.putFlag (f := .i) (by decide) true pushed
  exact hP.setPc _ (hP.readWord s.config.brkVector (s.config.brkVector + 1) flagged)

/-- The return from it pulls, and restores a status byte with the unused bit set (R18, R206). -/
theorem Stable.returnFromInterrupt (hs : P s) : P (Machine.returnFromInterrupt s) :=
  hP.setPc _ (hP.pullWord (hP.registers (hP.pull hs) ⟨rfl, keepsUnused_restoredStatus ..⟩))

/-! ### Fetch and resolver -/

theorem Stable.fetch8 (hs : P s) : P (Machine.fetch8 s).2 := hP.setPc _ (hP.read _ _ hs)

theorem Stable.fetchBytes (n : Nat) (hs : P s) : P (Machine.fetchBytes n s).2.2 := by
  unfold Machine.fetchBytes
  split
  · exact hs
  · exact hP.fetch8 hs
  · exact hP.fetch8 (hP.fetch8 hs)

theorem Stable.resolve (o : Operand) (hs : P s) : P (Machine.resolve o s).state := by
  cases o with
  | ind | izx | izy => exact hP.readWord _ _ hs
  | _ => exact hs

theorem Stable.resolveMode (m : Mode) (hs : P s) : P (Machine.resolveMode m s).state := by
  unfold Machine.resolveMode
  split
  · exact hP.setPc _ hs
  · exact hP.resolve _ (hP.fetchBytes _ hs)

/-! ### The behaviours -/

theorem Stable.modifyIn {f : Byte → State → Byte × State} (hf : ∀ m t, OnlyRegisters t (f m t).2) (mode : Mode)
    {r : Resolved} (hr : P r.state) : P (Machine.modifyIn mode f r) := by
  unfold Machine.modifyIn
  split
  · exact hP.registers (hP.registers hr (hf r.state.a r.state)) ⟨rfl, ⟨id⟩⟩
  · exact hP.write _ _ _ (hP.registers (hP.read _ _ hr) (hf ..))

theorem Stable.branchAt (cond : Bool) {r : Resolved} (hr : P r.state) : P (Machine.branchAt cond r).1 := by
  cases cond
  · exact hr
  · exact hP.setPc _ hr

/-- Every behaviour keeps the property (R98), by what it does to the bus and to `P`. -/
theorem Stable.execute (m : Mnemonic) (mode : Mode) {r : Resolved} (hr : P r.state) :
    P (Machine.execute m mode r).1 := by
  cases m with
  | lda | ldx | ldy | and | ora | eor => exact hP.registers (hP.read _ r.addr hr) ⟨rfl, keepsUnused_withZN ..⟩
  | adc | sbc => exact hP.registers (hP.read _ r.addr hr) ⟨rfl, keepsUnused_addWithCarry ..⟩
  | cmp | cpx | cpy => exact hP.registers (hP.read _ r.addr hr) ⟨rfl, keepsUnused_compareFlags ..⟩
  | bit => exact hP.registers (hP.read _ r.addr hr) ⟨rfl, keepsUnused_bitFlags ..⟩
  | sta | stx | sty => exact hP.write _ _ _ hr
  | inc | dec => exact hP.modifyIn (fun _ _ => ⟨rfl, keepsUnused_withZN ..⟩) mode hr
  | asl | lsr | rol | ror => exact hP.modifyIn (fun _ _ => ⟨rfl, keepsUnused_shiftWith ..⟩) mode hr
  | tax | tay | txa | tya | tsx | inx | iny | dex | dey =>
    exact hP.registers hr ⟨rfl, keepsUnused_withZN ..⟩
  | txs => exact hP.setSp _ hr
  | jmp => exact hP.setPc _ hr
  | jsr => exact hP.setPc _ (hP.pushWord _ hr)
  | rts => exact hP.setPc _ (hP.pullWord hr)
  | bcc | bcs | beq | bne | bmi | bpl | bvc | bvs => exact hP.branchAt _ hr
  | pha | php => exact hP.push _ hr
  | pla => exact hP.registers (hP.pull hr) ⟨rfl, keepsUnused_withZN ..⟩
  | plp => exact hP.registers (hP.pull hr) ⟨rfl, keepsUnused_restoredStatus ..⟩
  | clc | sec | cli | sei | cld | sed | clv => exact hP.putFlag (by decide) _ hr
  | brk => exact hP.softwareInterrupt _ hr
  | rti => exact hP.returnFromInterrupt hr
  | nop | unknown => exact hr

end

/-! ### The counters -/

/-- The counters of a state (R20 to R22). -/
def State.counters (s : State) : Nat × Nat × Nat := (s.cycles, s.seq, s.startCycle)

theorem memWrite_counters (s : State) (addr : Word) (v : Byte) : (memWrite s addr v).counters = s.counters := by
  rw [memWrite_eq]; rfl

/-- Neither registers nor the bus move a counter. -/
theorem stable_counters (c : Nat × Nat × Nat) : Stable fun s => s.counters = c where
  registers hs h := by rw [h.rest]; exact hs
  read _ _ hs := hs
  write s addr v hs := (memWrite_counters s addr v).trans hs

/-- A definition run adds its cost to `cycles`, in one addition, and moves no other counter (R99). -/
theorem runDefinition_counters (d : InstructionDef) (s : State) :
    ∃ crossed taken, (runDefinition d s).counters =
      (s.cycles + d.cost s.config.branchCrossExtra crossed taken, s.seq, s.startCycle) := by
  have hstable := stable_counters s.counters
  have h : (execute d.mnemonic d.mode (resolveMode d.mode s)).1.counters = s.counters :=
    hstable.execute _ _ (hstable.resolveMode _ rfl)
  exact ⟨_, _, congrArg (fun c : Nat × Nat × Nat => (c.1 + d.cost _ _ _, c.2)) h⟩

/-- A step adds the cost of the definition at `PC` to `cycles` and counts itself (R20 to R22, R81, R99, R100). -/
theorem step_counters {s t : State} (h : step s = .next t) :
    ∃ crossed taken, t.counters =
      (s.cycles + (definitionAtPc s).cost s.config.branchCrossExtra crossed taken, s.seq + 1, s.cycles) := by
  rw [step_eq] at h
  cases h
  obtain ⟨crossed, taken, hrun⟩ := runDefinition_counters (definitionAtPc s) (fetch8 (beginStep s)).2
  exact ⟨crossed, taken, congrArg (fun c : Nat × Nat × Nat => (c.1, c.2.1 + 1, c.2.2)) hrun⟩

/-- Settles O12, from `step_counters` and the costs of a definition the model allows. -/
theorem stepCostsTwoToSeven : Obligations.StepCostsTwoToSeven := by
  intro s t hconfig h
  obtain ⟨crossed, taken, hcounters⟩ := step_counters h
  have hcycles := congrArg Prod.fst hcounters
  obtain ⟨hlow, hhigh, -⟩ := InstructionDef.allowed_bounds (Configuration.definition_allowed hconfig (memPeek s s.pc))
  obtain ⟨hbase, hmost⟩ := (definitionAtPc s).cost_bounds s.config.branchCrossExtra crossed taken
  dsimp only [State.counters, definitionAtPc] at hcycles hbase hmost
  omega

/-! ### The invariant -/

/-- The part of `Inv` that every operation within a step keeps: the unused bit, the recorder and RAM. -/
structure Sound (s : State) : Prop where
  unused : getFlag s.p .u = true
  count : s.k = s.log.length
  offsets : s.log.map MicroOp.offset = List.range s.log.length
  ramForm : s.ram.wf = true
  ramSize : s.ram.within 2048 = true

/-- One more micro-op with offset `k` continues the numbering (R43, R45). -/
theorem offsets_append {log : List MicroOp} (h : log.map MicroOp.offset = List.range log.length) (op : MicroOp)
    (hop : op.offset = log.length) :
    (log ++ [op]).map MicroOp.offset = List.range (log ++ [op]).length := by
  rw [List.map_append, h, List.length_append, List.length_singleton, List.range_succ, ← hop, List.map_singleton]

/-- What is kept when a micro-op is recorded over sound RAM. -/
theorem Sound.recorded {s t : State} (hs : Sound s) (hp : t.p = s.p) (hk : t.k = s.k + 1) {op : MicroOp}
    (hop : op.offset = s.k) (hlog : t.log = s.log ++ [op]) (hform : t.ram.wf = true)
    (hsize : t.ram.within 2048 = true) : Sound t where
  unused := hp ▸ hs.unused
  count := by rw [hk, hlog, List.length_append, hs.count, List.length_singleton]
  offsets := hlog ▸ offsets_append hs.offsets op (hop.trans hs.count)
  ramForm := hform
  ramSize := hsize

theorem stable_sound : Stable Sound where
  registers hs h := by
    rw [h.rest]
    exact { hs with unused := h.unused.unused hs.unused }
  read _ _ hs := hs.recorded rfl rfl rfl rfl hs.ramForm hs.ramSize
  write s addr v hs := by
    have e := memWrite_eq s addr v
    exact hs.recorded (congrArg State.p e :) (congrArg State.k e :) rfl (congrArg State.log e :)
      (memWrite_ram_wf hs.ramForm addr v) (memWrite_ram_within hs.ramSize addr v)

theorem runDefinition_sound {s : State} (d : InstructionDef) (hs : Sound s) : Sound (runDefinition d s) :=
  { stable_sound.execute d.mnemonic d.mode (stable_sound.resolveMode d.mode hs) with }

/-- A step begins with an empty log (R81). -/
theorem Inv.beginStep_sound {s : State} (hs : Inv s) : Sound (beginStep s) :=
  ⟨hs.unused, rfl, rfl, hs.ramForm, hs.ramSize⟩

theorem step_sound {s t : State} (hs : Inv s) (h : step s = .next t) : Sound t := by
  rw [step_eq] at h
  cases h
  exact { runDefinition_sound (definitionAtPc s) (stable_sound.fetch8 hs.beginStep_sound) with }

/-- Settles O16: `Sound` is kept within the step, the launch parameters by `step_parameters`, and the step pays at least
2 cycles. -/
theorem stepKeepsInv : Obligations.StepKeepsInv := by
  intro s t hs h
  obtain ⟨hconfig, hrom, hlen, hwin, -, hmap⟩ := parameters_eq_iff.mp (step_parameters h)
  obtain ⟨crossed, taken, hcounters⟩ := step_counters h
  have hseq : t.seq = s.seq + 1 := congrArg (fun c : Nat × Nat × Nat => c.2.1) hcounters
  have hcycles := (stepCostsTwoToSeven s t hs.config h).1
  have hold := hs.cycles
  exact {
    step_sound hs h with
    romForm := hrom ▸ hs.romForm
    romSize := by rw [hrom, hlen]; exact hs.romSize
    romSupported := fun ht => by
      rw [hlen]
      exact hs.romSupported (Mapper.functions_eq_none.mp (hmap ▸ Mapper.functions_eq_none.mpr ht))
    window := hwin ▸ hs.window
    config := hconfig ▸ hs.config
    cycles := by rw [hseq]; omega }

end Sys2Proof.Machine
end

section
/-!
PROOFS. D and I are stored and nothing else (R19, R203, R238). Two states that differ in one of these flags alone are `s`
and `s.setP q`, where `q` agrees with `s.p` in the other flags; what ignores the flag takes them to two such states. That
is proved of each bus operation and each behaviour, and then of `exec`, whose only exceptions are PHP and BRK.
-/

namespace Sys2Proof.Machine

/-! ### Status bytes that agree but for one flag -/

/-- `p` and `q` agree in every flag but `f`. -/
structure AgreeBut (f : Flag) (p q : Byte) : Prop where
  flag : ∀ g, g ≠ f → getFlag q g = getFlag p g

/-- A flag that no computation reads: not C, which is an input of arithmetic, and no branch's condition (R164 to R171). -/
structure Unread (f : Flag) : Prop where
  c : Flag.c ≠ f
  z : Flag.z ≠ f
  v : Flag.v ≠ f
  n : Flag.n ≠ f

theorem unread_decimal_or_interrupt {f : Flag} (h : f = .d ∨ f = .i) : Unread f := by
  rcases h with rfl | rfl <;> exact ⟨by decide, by decide, by decide, by decide⟩

section
variable {f : Flag} {p q : Byte} (h : AgreeBut f p q)
include h

theorem AgreeBut.setFlag (g : Flag) (b : Bool) : AgreeBut f (Machine.setFlag p g b) (Machine.setFlag q g b) :=
  ⟨fun e he => by rw [getFlag_setFlag, getFlag_setFlag, h.flag e he]⟩

theorem AgreeBut.withZN (v : Byte) : AgreeBut f (Machine.withZN p v) (Machine.withZN q v) :=
  (h.setFlag .z _).setFlag .n _

theorem AgreeBut.compareFlags (r m : Byte) : AgreeBut f (Machine.compareFlags r m p) (Machine.compareFlags r m q) :=
  (h.setFlag .c _).withZN _

theorem AgreeBut.bitFlags (a m : Byte) : AgreeBut f (Machine.bitFlags a m p) (Machine.bitFlags a m q) :=
  ((h.setFlag .z _).setFlag .v _).setFlag .n _

/-- The sum reads C alone. -/
theorem AgreeBut.addWithCarry (hf : Unread f) (a m : Byte) :
    (Machine.addWithCarry a m q).1 = (Machine.addWithCarry a m p).1 ∧
      AgreeBut f (Machine.addWithCarry a m p).2 (Machine.addWithCarry a m q).2 := by
  have hsum : adcSum a m q = adcSum a m p := by rw [adcSum, adcSum, carryIn, carryIn, h.flag .c hf.c]
  simp only [Machine.addWithCarry, hsum, true_and]
  exact ((h.setFlag .c _).setFlag .v _).withZN _

end

theorem AgreeBut.refl (f : Flag) (p : Byte) : AgreeBut f p p := ⟨fun _ _ => rfl⟩

theorem agreeBut_setFlag (p : Byte) (f : Flag) (b : Bool) : AgreeBut f p (setFlag p f b) :=
  ⟨fun g hg => by rw [getFlag_setFlag, if_neg hg]⟩

/-! ### The bus does not read `P` -/

variable (s : State) (q : Byte)

theorem memRead_setP (addr : Word) : memRead (s.setP q) addr = ((memRead s addr).1, (memRead s addr).2.setP q) := rfl

theorem routeWrite_setP (addr : Word) (v : Byte) :
    (s.setP q).routeWrite addr v = (s.routeWrite addr v).setP q := by
  simp only [State.routeWrite, apply_ite (State.setP · q)]
  rfl

theorem memWrite_setP (addr : Word) (v : Byte) : memWrite (s.setP q) addr v = (memWrite s addr v).setP q := by
  rw [memWrite, routeWrite_setP]; rfl

theorem push_setP (v : Byte) : push (s.setP q) v = (push s v).setP q := by
  rw [push, push, setP_sp, memWrite_setP]; rfl

theorem pushWord_setP (w : Word) : pushWord (s.setP q) w = (pushWord s w).setP q := by
  rw [pushWord, pushWord, push_setP, push_setP]

theorem resolve_setP (o : Operand) :
    resolve o (s.setP q) = { resolve o s with state := (resolve o s).state.setP q } := by
  cases o <;> rfl

theorem readOperand_setP (o : Operand) :
    readOperand o (s.setP q) =
      ((readOperand o s).1, (readOperand o s).2.1, (readOperand o s).2.2.setP q) := by
  cases o <;> rfl

theorem resolve_p (o : Operand) : (resolve o s).state.p = s.p := by
  obtain ⟨d, l, k, h⟩ := resolve_state o s
  rw [h]

theorem readOperand_p (o : Operand) : (readOperand o s).2.2.p = s.p := by
  obtain ⟨d, l, k, h⟩ := readOperand_state o s
  rw [h]

/-! ### Behaviours that ignore a flag -/

/-- `t` is `s` but for the flag `f` of `P`. -/
structure DifferIn (f : Flag) (s t : State) : Prop where
  rest : t = s.setP t.p
  flags : AgreeBut f s.p t.p

/-- A behaviour takes states that differ in `f` alone to such states. -/
def Ignores (f : Flag) (g : State → State) : Prop :=
  ∀ s q, AgreeBut f s.p q → DifferIn f (g s) (g (s.setP q))

/-- So does one that gives a byte to write back too, and the same byte for both. -/
def IgnoresIn (f : Flag) (g : Byte → State → Byte × State) : Prop :=
  ∀ m s q, AgreeBut f s.p q → (g m (s.setP q)).1 = (g m s).1 ∧ DifferIn f (g m s).2 (g m (s.setP q)).2

/-- So does a whole instruction, which completes in both. -/
def OutcomeIgnores (f : Flag) (e : State → Outcome) : Prop :=
  ∀ s q, AgreeBut f s.p q → ∃ t u, e s = .next t ∧ e (s.setP q) = .next u ∧ DifferIn f t u

variable {f : Flag}

/-- What neither reads nor writes `P` ignores every flag. -/
theorem ignores_of_setP {g : State → State} (hg : ∀ s q, g (s.setP q) = (g s).setP q) : Ignores f g := by
  intro s q h
  have hp : (g s).p = s.p := (congrArg State.p (hg s s.p) :)
  rw [hg]
  exact ⟨rfl, hp ▸ h⟩

theorem Ignores.apply {g : State → State} (hg : Ignores f g) {s t : State} (h : DifferIn f s t) :
    DifferIn f (g s) (g t) := by
  rw [h.rest]
  exact hg s t.p h.flags

theorem DifferIn.addCycles {s t : State} (h : DifferIn f s t) (n : Nat) : DifferIn f (s.addCycles n) (t.addCycles n) :=
  (ignores_of_setP (g := fun t => t.addCycles n) fun _ _ => rfl).apply h

theorem ignores_memWrite (addr : Word) (v : Byte) : Ignores f fun s => memWrite s addr v :=
  ignores_of_setP fun s q => memWrite_setP s q addr v

theorem ignores_putFlag (g : Flag) (b : Bool) : Ignores f fun s => s.putFlag g b :=
  fun _ _ h => ⟨rfl, h.setFlag g b⟩

theorem ignores_addM (hf : Unread f) (m : Byte) : Ignores f (addM m) := by
  intro s q h
  obtain ⟨hr, hp⟩ := h.addWithCarry hf s.a m
  exact ⟨congrArg (fun r => (s.setA r).setP (addWithCarry s.a m q).2) hr, hp⟩

theorem ignoresIn_shiftWith (hf : Unread f) (op : Byte → Bool → Byte × Bool) : IgnoresIn f (shiftWith op) := by
  intro m s q h
  simp only [shiftWith, setP_p, h.flag .c hf.c, true_and]
  exact ⟨rfl, (h.setFlag .c _).withZN _⟩

theorem ignores_modifyA {g : Byte → State → Byte × State} (hg : IgnoresIn f g) : Ignores f (modifyA g) := by
  intro s q h
  obtain ⟨hv, hd⟩ := hg s.a s q h
  simp only [modifyA, setP_a, hv]
  exact (ignores_of_setP (g := fun t => t.setA (g s.a s).1) fun _ _ => rfl).apply hd

/-! ### The shapes of the instructions -/

variable (i : Instr)

theorem execRead_ignores {g : Byte → State → State} (hg : ∀ m, Ignores f (g m)) : OutcomeIgnores f (execRead i g) := by
  intro s q h
  refine ⟨_, _, execRead_eq i g s, execRead_eq i g (s.setP q), ?_⟩
  rw [readOperand_setP]
  exact (hg _ _ q (by rwa [readOperand_p])).addCycles _

theorem execAddress_ignores {g : Word → State → State} (hg : ∀ a, Ignores f (g a)) :
    OutcomeIgnores f (execAddress i g) := by
  intro s q h
  refine ⟨_, _, execAddress_eq i g s, execAddress_eq i g (s.setP q), ?_⟩
  rw [resolve_setP]
  exact (hg _ _ q (by rwa [resolve_p])).addCycles _

theorem execStore_ignores {src : State → Byte} (hsrc : ∀ s q, src (s.setP q) = src s) :
    OutcomeIgnores f (execStore i src) :=
  execAddress_ignores i (g := fun a t => memWrite t a (src t)) fun a =>
    ignores_of_setP fun s q => by rw [memWrite_setP, hsrc]

theorem execModify_ignores {g : Byte → State → Byte × State} (hg : IgnoresIn f g) : OutcomeIgnores f (execModify i g) :=
  execAddress_ignores i (g := fun a t => modifyAt g ⟨a, false, t⟩) fun a s q h => by
    obtain ⟨hv, hd⟩ := hg (memPeek s a) (memRead s a).2 q h
    simp only [modifyAt, memRead_setP, memRead_fst, hv]
    exact (ignores_memWrite a _).apply hd

theorem execImplied_ignores {g : State → State} (hg : Ignores f g) : OutcomeIgnores f (execImplied i g) :=
  fun s q h => ⟨_, _, execImplied_eq i g s, execImplied_eq i g (s.setP q), (hg s q h).addCycles _⟩

/-- A shift or rotate, in mode ACC or on memory. -/
theorem execShift_ignores (hf : Unread f) (op : Byte → Bool → Byte × Bool) :
    OutcomeIgnores f fun s =>
      if i.operand.mode = .acc then execAccumulator i (shiftWith op) s else execModify i (shiftWith op) s := by
  split
  · exact execImplied_ignores i (ignores_modifyA (ignoresIn_shiftWith hf op))
  · exact execModify_ignores i (ignoresIn_shiftWith hf op)

/-- A branch reads the flag of its condition alone. -/
theorem execBranch_ignores {e : Flag} (he : e ≠ f) (b : Bool) :
    OutcomeIgnores f fun s => execBranch i (getFlag s.p e == b) s := by
  intro s q h
  have hr : AgreeBut f (resolve i.operand s).state.p q := by rwa [resolve_p]
  simp only [execBranch, resolve_setP, setP_p, h.flag e he, branchAt]
  split
  · exact ⟨_, _, rfl, rfl, rfl, hr⟩
  · exact ⟨_, _, rfl, rfl, rfl, hr⟩

/-- Every instruction but PHP and BRK, which push the status byte, ignores a flag that no computation reads. -/
theorem exec_ignores (hf : Unread f) (hphp : i.mnemonic ≠ .php) (hbrk : i.mnemonic ≠ .brk) :
    OutcomeIgnores f (exec i) := by
  rw [show exec i = execByMnemonic i from funext (exec_eq i)]
  unfold execByMnemonic
  cases hm : i.mnemonic with
  | lda | ldx | ldy | and | ora | eor => exact execRead_ignores i fun m s q h => ⟨rfl, h.withZN _⟩
  | adc => exact execRead_ignores i (ignores_addM hf)
  | sbc => exact execRead_ignores i fun m => ignores_addM hf (m ^^^ 0xFF)
  | cmp | cpx | cpy => exact execRead_ignores i fun m s q h => ⟨rfl, h.compareFlags _ _⟩
  | bit => exact execRead_ignores i fun m s q h => ⟨rfl, h.bitFlags _ _⟩
  | sta | stx | sty => exact execStore_ignores i fun _ _ => rfl
  | inc | dec => exact execModify_ignores i fun m s q h => ⟨rfl, rfl, h.withZN _⟩
  | asl => exact execShift_ignores i hf aslOp
  | lsr => exact execShift_ignores i hf lsrOp
  | rol => exact execShift_ignores i hf rolOp
  | ror => exact execShift_ignores i hf rorOp
  | tax | tay | txa | tya | tsx | inx | iny | dex | dey | pla =>
    exact execImplied_ignores i fun s q h => ⟨rfl, h.withZN _⟩
  | jmp => exact execAddress_ignores i fun a => ignores_of_setP fun _ _ => rfl
  | jsr => exact execAddress_ignores i fun a => ignores_of_setP fun s q =>
      congrArg (State.setPc · a) (pushWord_setP s q (s.pc - 1))
  | bcc | bcs => exact execBranch_ignores i hf.c _
  | beq | bne => exact execBranch_ignores i hf.z _
  | bmi | bpl => exact execBranch_ignores i hf.n _
  | bvc | bvs => exact execBranch_ignores i hf.v _
  | pha => exact execImplied_ignores i (ignores_of_setP fun s q => push_setP s q s.a)
  | plp | rti => exact execImplied_ignores i fun s q h => ⟨rfl, .refl f (restoredStatus (pull s).1)⟩
  | clc | sec | cli | sei | cld | sed | clv => exact execImplied_ignores i (ignores_putFlag _ _)
  | txs | rts | nop | unknown => exact execImplied_ignores i (ignores_of_setP fun _ _ => rfl)
  | php => exact absurd hm hphp
  | brk => exact absurd hm hbrk

/-- Settles O21, from `exec_ignores`. -/
theorem decimalAndInterruptFlagsAreInert : Obligations.DecimalAndInterruptFlagsAreInert := by
  intro i s t f b hf hphp hbrk h
  obtain ⟨t', u, ht, hu, hrest, hflags⟩ :=
    exec_ignores i (unread_decimal_or_interrupt hf) hphp hbrk s _ (agreeBut_setFlag s.p f b)
  obtain rfl : t' = t := by rw [ht] at h; cases h; rfl
  exact ⟨u.p, hu.trans (congrArg Host.Outcome.next hrest), hflags.flag⟩

end Sys2Proof.Machine
end

section
/-!
PROOFS. The bus by range of addresses (R31 to R41): one equation for a read and one for a write in each of RAM, the
register window, the cartridge window and the unmapped range; and the frame of a write over RAM.
-/

namespace Sys2Proof.Machine

variable {s : State} {addr : Word}

/-! ### Unmapped addresses -/

/-- Nothing answers a read between RAM and the cartridge window, outside the register window (R35). -/
theorem memPeek_unmapped (hlow : 0x2000 ≤ addr.toNat) (hhigh : addr.toNat < 0x8000) (hwin : addr ∉ s.regWindow) :
    memPeek s addr = 0x00 := by
  simp only [memPeek, State.route, if_neg hlow.not_gt, if_neg hwin, if_neg hhigh.not_ge]
  rfl

/-- Such a write is recorded and otherwise ignored (R38, R44). -/
theorem memWrite_unmapped (hlow : 0x2000 ≤ addr.toNat) (hhigh : addr.toNat < 0x8000) (hwin : addr ∉ s.regWindow)
    (v : Byte) : memWrite s addr v = s.record .write addr v := by
  simp only [memWrite, State.routeWrite, if_neg hlow.not_gt, if_neg hwin, if_neg hhigh.not_ge]

/-- Settles O24, from the routing of unmapped addresses. -/
theorem unmappedAccess : Obligations.UnmappedAccess := by
  intro s addr v hlow hhigh hwin
  refine ⟨?_, memWrite_unmapped hlow hhigh hwin v⟩
  rw [memRead_memory s (.inr hwin), memPeek_unmapped hlow hhigh hwin]

/-! ### The register window -/

/-- A read in the register window is the device's (R34). -/
theorem route_window (hlow : 0x2000 ≤ addr.toNat) (hwin : addr ∈ s.regWindow) : s.route addr = s.devRead addr := by
  simp only [State.route, if_neg hlow.not_gt, if_pos hwin]

/-- So is a write (R34, R37). -/
theorem memWrite_window (hlow : 0x2000 ≤ addr.toNat) (hwin : addr ∈ s.regWindow) (v : Byte) :
    memWrite s addr v = State.record { s with dev := s.devWrite addr v } .write addr v := by
  simp only [memWrite, State.routeWrite, if_neg hlow.not_gt, if_pos hwin]

/-- Settles O26: the routing gives the access to the device, whose hooks answer as their rows say. -/
theorem registerWindowAccess : Obligations.RegisterWindowAccess := by
  intro s addr v hlow hwin
  refine ⟨?_, memWrite_window hlow hwin v, devRead_givenByRows s addr, devWrite_givenByRows s addr v⟩
  rw [memRead_eq, memPeek, route_window hlow hwin]

/-- Settles O27, from the one equation of a read. -/
theorem readRecordsAndKeeps : Obligations.ReadRecordsAndKeeps :=
  fun s addr => ⟨(s.route addr).2, memRead_eq s addr, route_dev s⟩

/-! ### The cartridge window -/

/-- A read in the cartridge window, outside the register window, is the mapper's (R33). -/
theorem memPeek_mapper (h : 0x8000 ≤ addr.toNat) (hwin : addr ∉ s.regWindow) :
    memPeek s addr = s.mapperRead addr := by
  have hlow : ¬ addr.toNat < 0x2000 := by omega
  simp only [memPeek, State.route, if_neg hlow, if_neg hwin, if_pos h]

/-- So is a write (R37, R39). -/
theorem memWrite_mapper (h : 0x8000 ≤ addr.toNat) (hwin : addr ∉ s.regWindow) (v : Byte) :
    memWrite s addr v = State.record { s with mapper := s.mapperWrite addr v } .write addr v := by
  have hlow : ¬ addr.toNat < 0x2000 := by omega
  simp only [memWrite, State.routeWrite, if_neg hlow, if_neg hwin, if_pos h]

/-- The fixed-ROM mapper ignores writes (R40). -/
theorem mapperWrite_fixedRom (hmap : s.mapper = .fixedRom) (addr : Word) (v : Byte) :
    s.mapperWrite addr v = s.mapper := by
  simp only [State.mapperWrite, hmap]

/-- Settles O25, by the kind of mapper. -/
theorem fixedRomWindow : Obligations.FixedRomWindow := by
  intro s addr v h hwin
  constructor
  case left =>
    intro hmap
    constructor
    · rw [memPeek_fixedRom hmap h hwin, romRead, romOffset_eq s.romLength h]
      rfl
    · rw [memWrite_mapper h hwin, mapperWrite_fixedRom hmap]
      rfl
  case right =>
    intro m ms hmap
    obtain ⟨ms', hwrite, hrows⟩ := mapperWrite_givenByRows hmap addr v
    refine ⟨?_, mapperRead_givenByRows hmap addr, ms', ?_, hrows⟩
    · rw [memRead_memory s (.inr hwin), memPeek_mapper h hwin]
    · rw [memWrite_mapper h hwin, hwrite]
      rfl

/-! ### RAM and its mirrors -/

/-- The mirror of an address below `0x2000` lies below `0x2000` and has the same low 11 bits (R32). -/
theorem mirror_toNat (h : addr.toNat < 0x2000) :
    (addr ^^^ 0x0800).toNat < 0x2000 ∧ (addr ^^^ 0x0800).toNat % 2048 = addr.toNat % 2048 := by
  rw [BitVec.toNat_xor]
  constructor
  · exact Nat.xor_lt_two_pow (n := 13) h (by decide)
  · exact (Nat.xor_mod_two_pow (n := 11)).trans (Nat.xor_zero _)

/-- A byte written below `0x2000` is read back through every mirror (R32). -/
theorem memPeek_memWrite_mirror (hwf : s.ram.wf = true) (h : addr.toNat < 0x2000) {b : Word} (hb : b.toNat < 0x2000)
    (hcell : b.toNat % 2048 = addr.toNat % 2048) (v : Byte) : memPeek (memWrite s addr v) b = v := by
  rw [memPeek_ram _ hb, memWrite_ram s h, Memory.read_write hwf, if_pos hcell]

/-- An address below `0x2000` is aliased by its mirrors alone (R32). -/
theorem aliases_ram_iff (h : addr.toNat < 0x2000) (b : Word) :
    Aliases s addr b ↔ b.toNat < 0x2000 ∧ b.toNat % 2048 = addr.toNat % 2048 := by
  have hhigh : ¬ 0x8000 ≤ addr.toNat := by omega
  simp only [Aliases, h, hhigh, true_and, false_and, or_false, eq_comm]

/-- Settles O22: an address and its mirror name one cell. -/
theorem ramIsMirrored : Obligations.RamIsMirrored := by
  intro s addr h
  obtain ⟨hlt, hcell⟩ := mirror_toNat h
  refine ⟨memPeek_ram s h, ?_, fun v => ⟨?_, fun hwf => memPeek_memWrite_mirror hwf h hlt hcell v⟩⟩
  · rw [memPeek_ram s hlt, memPeek_ram s h, hcell]
  · rw [memWrite_ram s h]

/-- Settles O23: the mirrors read the byte written, and every other cell reads as before. -/
theorem ramWriteIsReadBack : Obligations.RamWriteIsReadBack := by
  intro s addr b v hwf h hb
  split
  · next hmirror => exact memPeek_memWrite_mirror hwf h hmirror.1 hmirror.2 v
  · next hother =>
    refine memWrite_keepsMemoryBut hwf addr v b hb fun w hw => ?_
    rw [List.mem_singleton.mp hw, aliases_ram_iff h]
    exact hother

end Sys2Proof.Machine
end

section
/-!
PROOFS. What an instruction that stores through its operand leaves alone (R32, R37, R113 to R115, R139, R150 to R153).
Up to its one write it changes nothing that a peek of memory reads, so the frame of the instruction is the frame of
`memWrite`.
-/

namespace Sys2Proof.Machine

/-- `s` and `t` agree in all that a read of memory depends on (R31 to R40). -/
structure SameMemory (s t : State) : Prop where
  ram : t.ram = s.ram
  rom : t.rom = s.rom
  romLength : t.romLength = s.romLength
  mapper : t.mapper = s.mapper
  regWindow : t.regWindow = s.regWindow

variable {s t u : State}

theorem SameMemory.trans (h : SameMemory s t) (h' : SameMemory t u) : SameMemory s u :=
  ⟨h'.ram.trans h.ram, h'.rom.trans h.rom, h'.romLength.trans h.romLength, h'.mapper.trans h.mapper,
    h'.regWindow.trans h.regWindow⟩

theorem SameMemory.keepsMemory (h : SameMemory s t) : KeepsMemory s t :=
  fun _ hb => memPeek_congr h.ram h.rom h.romLength h.mapper h.regWindow (.inr hb)

theorem sameMemory_resolve (o : Operand) (s : State) : SameMemory s (resolve o s).state := by
  obtain ⟨d, l, k, h⟩ := resolve_state o s
  rw [h]
  exact ⟨rfl, rfl, rfl, rfl, rfl⟩

theorem sameMemory_memRead (s : State) (addr : Word) : SameMemory s (memRead s addr).2 := ⟨rfl, rfl, rfl, rfl, rfl⟩

/-- A write from a state with the memory of `s` changes only what aliases its address in `s`. -/
theorem SameMemory.memWrite_keepsMemoryBut (h : SameMemory s t) (hwf : s.ram.wf = true) (addr : Word) (v : Byte) :
    KeepsMemoryBut [addr] s (memWrite t addr v) := by
  intro b hb hother
  have hbt : IsMemory t b := by rwa [IsMemory, h.regWindow]
  have hothert : ∀ w ∈ [addr], ¬ Aliases t w b := by simpa only [Aliases, h.mapper] using hother
  rw [Machine.memWrite_keepsMemoryBut (h.ram ▸ hwf) addr v b hbt hothert, h.keepsMemory b hb]

@[simp] theorem memPeek_addCycles (s : State) (n : Nat) (addr : Word) : memPeek (s.addCycles n) addr = memPeek s addr :=
  memPeek_congr rfl rfl rfl rfl rfl (.inl ⟨rfl, rfl⟩)

theorem keepsMemoryBut_addCycles {stored : List Word} (h : KeepsMemoryBut stored s t) (n : Nat) :
    KeepsMemoryBut stored s (t.addCycles n) :=
  fun b hb hother => (memPeek_addCycles t n b).trans (h b hb hother)

theorem execStore_keepsMemoryBut {i : Instr} {src : State → Byte} (hwf : s.ram.wf = true)
    (h : execStore i src s = .next t) : KeepsMemoryBut [(resolve i.operand s).addr] s t := by
  rw [execStore_eq] at h
  cases h
  exact keepsMemoryBut_addCycles ((sameMemory_resolve i.operand s).memWrite_keepsMemoryBut hwf _ _) _

theorem execModify_keepsMemoryBut {i : Instr} {f : Byte → State → Byte × State}
    (hf : ∀ m u, SameMemory u (f m u).2) (hwf : s.ram.wf = true) (h : execModify i f s = .next t) :
    KeepsMemoryBut [(resolve i.operand s).addr] s t := by
  rw [execModify_eq] at h
  cases h
  have hread := (sameMemory_resolve i.operand s).trans (sameMemory_memRead _ (resolve i.operand s).addr)
  exact keepsMemoryBut_addCycles ((hread.trans (hf _ _)).memWrite_keepsMemoryBut hwf _ _) _

/-- Settles O39, by the shape of the instruction: a store, or a read, a computation and a write. -/
theorem storedByteFrame : Obligations.StoredByteFrame := by
  intro i s t hwf hmode hmem h
  rw [exec_eq] at h
  cases hm : i.mnemonic with
  | sta | stx | sty =>
    simp only [execByMnemonic, hm] at h
    exact execStore_keepsMemoryBut hwf h
  | inc | dec | asl | lsr | rol | ror =>
    simp only [execByMnemonic, hm, if_neg hmode] at h
    exact execModify_keepsMemoryBut (fun _ _ => ⟨rfl, rfl, rfl, rfl, rfl⟩) hwf h
  | _ =>
    rw [hm] at hmem
    exact absurd hmem (by decide)

end Sys2Proof.Machine
end

section
/-!
PROOFS. The micro-ops of a step (R43, R45, R106): how they are numbered and which is the first, as a property that every
operation within the step keeps; and how many there are, as one equation per operation.
-/

namespace Sys2Proof.Machine

/-! ### Numbering -/

/-- The recorder within a step whose first micro-op is `first`: numbered without gaps, and counted (R43, R45). -/
structure Numbered (first : MicroOp) (s : State) : Prop where
  count : s.k = s.log.length
  offsets : s.log.map MicroOp.offset = List.range s.log.length
  head : s.log.head? = some first

/-- One more micro-op with offset `k` keeps the numbering. -/
theorem Numbered.recorded {first op : MicroOp} {s t : State} (hs : Numbered first s) (hop : op.offset = s.k)
    (hlog : t.log = s.log ++ [op]) (hk : t.k = s.k + 1) : Numbered first t where
  count := by rw [hk, hlog, List.length_append, hs.count, List.length_singleton]
  offsets := hlog ▸ offsets_append hs.offsets op (hop.trans hs.count)
  head := by rw [hlog, List.head?_append, hs.head, Option.some_or]

theorem stable_numbered (first : MicroOp) : Stable (Numbered first) where
  registers hs h := by
    rw [h.rest]
    exact { hs with }
  read _ _ hs := hs.recorded rfl rfl rfl
  write s addr v hs := by
    have e := memWrite_eq s addr v
    exact hs.recorded rfl (congrArg State.log e :) (congrArg State.k e :)

/-- The micro-op of the opcode fetch (R45, R82). -/
def opcodeFetch (s : State) : MicroOp := { kind := .read, addr := s.pc, value := memPeek s s.pc, offset := 0 }

/-- After the opcode fetch the log holds its micro-op alone (R81, R82). -/
theorem opcodeFetched_log (s : State) : (fetch8 (beginStep s)).2.log = [opcodeFetch s] := rfl

theorem step_numbered {s t : State} (h : step s = .next t) : Numbered (opcodeFetch s) t := by
  rw [step_eq] at h
  cases h
  have hfetch : Numbered (opcodeFetch s) (fetch8 (beginStep s)).2 := ⟨rfl, rfl, rfl⟩
  have hstable := stable_numbered (opcodeFetch s)
  exact { hstable.execute _ (definitionAtPc s).mode (hstable.resolveMode _ hfetch) with }

/-! ### The number of micro-ops -/

/-- The micro-ops recorded so far. -/
def State.recorded (s : State) : Nat := s.log.length

variable (s : State)

@[simp] theorem memRead_recorded (addr : Word) : (memRead s addr).2.recorded = s.recorded + 1 := List.length_append

@[simp] theorem memWrite_recorded (addr : Word) (v : Byte) : (memWrite s addr v).recorded = s.recorded + 1 := by
  rw [memWrite_eq]; exact List.length_append

@[simp] theorem setPc_recorded (v : Word) : (s.setPc v).recorded = s.recorded := rfl

@[simp] theorem setP_recorded (v : Byte) : (s.setP v).recorded = s.recorded := rfl

@[simp] theorem push_recorded (v : Byte) : (push s v).recorded = s.recorded + 1 := memWrite_recorded ..

@[simp] theorem pull_recorded : (pull s).2.recorded = s.recorded + 1 := memRead_recorded ..

@[simp] theorem pushWord_recorded (w : Word) : (pushWord s w).recorded = s.recorded + 2 := by
  simp only [pushWord, push_recorded]

@[simp] theorem pullWord_recorded : (pullWord s).2.recorded = s.recorded + 2 := by
  simp only [pullWord, pull_recorded]

@[simp] theorem readWord_recorded (lo hi : Word) : (readWord s lo hi).2.recorded = s.recorded + 2 := by
  simp only [readWord, memRead_recorded]

/-- Three pushes and the two reads of the vector (R201). -/
theorem softwareInterrupt_recorded (ret : Word) : (softwareInterrupt s ret).recorded = s.recorded + 5 := by
  simp only [softwareInterrupt, setPc_recorded, readWord_recorded, setP_recorded, push_recorded, pushWord_recorded]

/-- Three pulls (R206). -/
theorem returnFromInterrupt_recorded : (returnFromInterrupt s).recorded = s.recorded + 3 := by
  simp only [returnFromInterrupt, setPc_recorded, pullWord_recorded, setP_recorded, pull_recorded]

@[simp] theorem fetch8_recorded : (fetch8 s).2.recorded = s.recorded + 1 := memRead_recorded ..

/-- The resolver makes as many reads as its mode says (R106). -/
theorem resolveMode_recorded (m : Mode) : (resolveMode m s).state.recorded = s.recorded + m.reads := by
  cases m with
  | imp | acc | imm | unk => rfl
  | zp | zpx | zpy | rel => exact fetch8_recorded s
  | abs | abx | aby => exact (fetch8_recorded _).trans (congrArg (· + 1) (fetch8_recorded s))
  | izx | izy => exact (readWord_recorded ..).trans (congrArg (· + 2) (fetch8_recorded s))
  | ind =>
    refine (readWord_recorded ..).trans (congrArg (· + 2) ?_)
    exact (fetch8_recorded _).trans (congrArg (· + 1) (fetch8_recorded s))

/-- On A no micro-op, on memory a read and a write (R86, R139). -/
theorem modifyIn_recorded {f : Byte → State → Byte × State} (hf : ∀ m t, (f m t).2.recorded = t.recorded)
    (mode : Mode) (r : Resolved) :
    (modifyIn mode f r).recorded = r.state.recorded + if mode = .acc then 0 else 2 := by
  unfold modifyIn
  split
  · exact hf ..
  · simp only [modifyAt, memWrite_recorded, hf, memRead_recorded]

theorem branchAt_recorded (cond : Bool) (r : Resolved) : (branchAt cond r).1.recorded = r.state.recorded := by
  cases cond <;> rfl

/-- A behaviour makes as many transactions as its mnemonic says (R98, R106). -/
theorem execute_recorded (m : Mnemonic) (mode : Mode) (r : Resolved) :
    (execute m mode r).1.recorded = r.state.recorded + m.transactions mode := by
  cases m with
  | lda | ldx | ldy | adc | sbc | and | ora | eor | cmp | cpx | cpy | bit => exact memRead_recorded r.state r.addr
  | sta | stx | sty => exact memWrite_recorded ..
  | inc | dec | asl | lsr | rol | ror => exact modifyIn_recorded (fun _ _ => rfl) mode r
  | bcc | bcs | beq | bne | bmi | bpl | bvc | bvs => exact branchAt_recorded _ r
  | pha | php => exact push_recorded ..
  | pla | plp => exact pull_recorded r.state
  | jsr => exact pushWord_recorded ..
  | rts => exact pullWord_recorded r.state
  | brk => exact softwareInterrupt_recorded ..
  | rti => exact returnFromInterrupt_recorded ..
  | _ => rfl

/-- A step makes the micro-ops of the definition at `PC` (R106). -/
theorem step_recorded {s t : State} (h : step s = .next t) : t.recorded = (definitionAtPc s).microOps := by
  rw [step_eq] at h
  cases h
  exact (execute_recorded ..).trans (congrArg (· + _) (resolveMode_recorded ..))

/-! ### The bound -/

/-- A definition of the default table or of a configuration the model allows has no more micro-ops than its base cost
(R45; log entry 13). -/
theorem definitionAtPc_microOps_le
    (hdef : s.config.row (memPeek s s.pc) = none ∨ s.config.wellFormed = true) :
    (definitionAtPc s).microOps ≤ (definitionAtPc s).baseCycles := by
  rcases hdef with hrow | hconfig
  · rw [definitionAtPc, s.config.definition_noRow hrow]
    exact (InstructionDef.allowed_bounds (defaultDefinition_allowed _ (Nat.zero_le 1))).2.2
  · exact (InstructionDef.allowed_bounds (Configuration.definition_allowed hconfig _)).2.2

/-- Settles O14: the numbering is kept within the step, the count is that of the definition at `PC`, and the step pays
at least the base cost. -/
theorem microOpsNumberedFromOpcodeFetch : Obligations.MicroOpsNumberedFromOpcodeFetch := by
  intro s t h
  obtain ⟨hcount, hoffsets, hhead⟩ := step_numbered h
  refine ⟨hoffsets, hcount, hhead, fun hdef => ?_⟩
  obtain ⟨crossed, taken, hcounters⟩ := step_counters h
  have hcycles : t.cycles = s.cycles + _ := congrArg Prod.fst hcounters
  have hcost := ((definitionAtPc s).cost_bounds s.config.branchCrossExtra crossed taken).1
  calc t.log.length
      = (definitionAtPc s).microOps := step_recorded h
    _ ≤ (definitionAtPc s).baseCycles := definitionAtPc_microOps_le s hdef
    _ ≤ t.cycles - s.cycles := by omega

end Sys2Proof.Machine
end

section
/-!
PROOFS. The decoder and the encoder (R60 to R69). Two facts carry both directions: the row that `assemble` selects has
byte 0 as its opcode and the operand its mode assembles from the next two bytes (`assemble_form`), and a well-formed
instruction is the one that its opcode and its operand select (`assemble_of_operand`).
-/

namespace Sys2Proof

/-! ### The row of an opcode byte -/

/-- The opcode of an assembled instruction is all of byte 0 (R60). -/
@[simp] theorem assemble_opcode (b0 b1 b2 : Byte) : (assemble b0 b1 b2).opcode = b0 :=
  calc (assemble b0 b1 b2).opcode
      = (assemble b0 0 0).opcode := (congrArg Form.opcode (assemble_form b0 b1 b2)).trans rfl
    _ = b0 := by revert b0; decide

theorem assemble_mnemonic (b0 b1 b2 : Byte) : (assemble b0 b1 b2).mnemonic = (defaultDefinition b0).mnemonic :=
  (congrArg Form.mnemonic (assemble_form b0 b1 b2)).trans rfl

theorem assemble_operand (b0 b1 b2 : Byte) :
    (assemble b0 b1 b2).operand = (defaultDefinition b0).mode.assembled b1 b2 :=
  congrArg Form.operand (assemble_form b0 b1 b2)

theorem assemble_baseCycles (b0 b1 b2 : Byte) :
    (assemble b0 b1 b2).form.baseCycles = (defaultDefinition b0).baseCycles :=
  (congrArg Form.baseCycles (assemble_form b0 b1 b2)).trans rfl

theorem assemble_penalty (b0 b1 b2 : Byte) : (assemble b0 b1 b2).form.penalty = (defaultDefinition b0).penalty :=
  (congrArg Form.penalty (assemble_form b0 b1 b2)).trans rfl

@[simp] theorem Mode.assembled_mode (m : Mode) (b1 b2 : Byte) : (m.assembled b1 b2).mode = m := by cases m <;> rfl

theorem assemble_mode (b0 b1 b2 : Byte) : (assemble b0 b1 b2).operand.mode = (defaultDefinition b0).mode := by
  rw [assemble_operand, Mode.assembled_mode]

theorem Mode.length_bounds (m : Mode) : 1 ≤ m.length ∧ m.length ≤ 3 := by cases m <;> decide

/-! ### The unknown opcodes -/

/-- The default table gives the sentinel to the listed bytes and to no other (R67). -/
theorem defaultDefinition_unknown_iff (op : Byte) :
    (defaultDefinition op).mnemonic = .unknown ↔ op ∈ unknownOpcodes := by revert op; decide

theorem assemble_mnemonic_unknown_iff (op b1 b2 : Byte) :
    (assemble op b1 b2).mnemonic = .unknown ↔ op ∈ unknownOpcodes := by
  rw [assemble_mnemonic, defaultDefinition_unknown_iff]

/-- Only the sentinel has the mnemonic `???` (R67). -/
theorem Instr.eq_unknown_of_mnemonic {i : Instr} (h : i.mnemonic = .unknown) : i = .unknown i.opcode := by
  cases i with
  | unknown op => rfl
  | _ => cases h

theorem assemble_unknown {op : Byte} (h : op ∈ unknownOpcodes) (b1 b2 : Byte) : assemble op b1 b2 = .unknown op := by
  have hi := Instr.eq_unknown_of_mnemonic ((assemble_mnemonic_unknown_iff op b1 b2).mpr h)
  rwa [assemble_opcode] at hi

/-- The one check of well-formedness, by mnemonic and opcode (R67). -/
theorem Instr.wellFormed_iff (i : Instr) : i.WellFormed ↔ (i.mnemonic = .unknown → i.opcode ∈ unknownOpcodes) := by
  cases i with
  | unknown op => exact List.contains_iff_mem.trans ⟨fun h _ => h, fun h => h rfl⟩
  | _ => exact ⟨fun _ => nofun, fun _ => rfl⟩

theorem assemble_wellFormed (b0 b1 b2 : Byte) : (assemble b0 b1 b2).WellFormed := by
  rw [Instr.wellFormed_iff, assemble_mnemonic_unknown_iff, assemble_opcode]
  exact id

/-! ### The words of an assembled instruction -/

/-- The operand bytes of a mode are the first so many of the two it assembles its operand from (R61). -/
theorem Mode.assembled_bytes (m : Mode) (b1 b2 : Byte) : (m.assembled b1 b2).bytes = [b1, b2].take (m.length - 1) := by
  cases m with
  | abs | abx | aby | ind => simp [Mode.assembled, Operand.bytes, Mode.length]
  | _ => rfl

/-- The words of an assembled instruction are the first so many bytes as byte 0 fixes (R60, R69). -/
theorem encode_assemble (b0 b1 b2 : Byte) :
    encode (assemble b0 b1 b2) = b0 :: [b1, b2].take (lengthOf b0 - 1) := by
  rw [encode, assemble_opcode, assemble_operand, Mode.assembled_bytes]
  rfl

/-- A well-formed instruction is what its opcode selects, with any bytes its mode assembles to its operand. -/
theorem assemble_of_operand {i : Instr} {b1 b2 : Byte} (hwf : i.WellFormed)
    (ho : i.operand = i.operand.mode.assembled b1 b2) : assemble i.opcode b1 b2 = i := by
  cases i with
  | unknown op => exact assemble_unknown (List.contains_iff_mem.mp hwf) b1 b2
  | _ =>
    cases ho
    simp only [Instr.opcode, Instr.form]
    rfl

/-- Every operand is assembled by its mode from some two bytes (R62). -/
theorem Operand.exists_assembled (o : Operand) : ∃ b1 b2, o = o.mode.assembled b1 b2 := by
  cases o with
  | imp | acc | unk => exact ⟨0, 0, rfl⟩
  | imm b | zp b | zpx b | zpy b | rel b | izx b | izy b => exact ⟨b, 0, rfl⟩
  | abs a | abx a | aby a | ind a =>
    refine ⟨lowByte a, highByte a, ?_⟩
    simp only [Operand.mode, Mode.assembled, joinBytes_high_low]

theorem Instr.WellFormed.exists_assemble {i : Instr} (h : i.WellFormed) : ∃ b0 b1 b2, i = assemble b0 b1 b2 := by
  obtain ⟨b1, b2, ho⟩ := i.operand.exists_assembled
  exact ⟨i.opcode, b1, b2, (assemble_of_operand h ho).symm⟩

/-- A mode assembles its operand from no more bytes than its length has (R61). -/
theorem Mode.assembled_congr {m : Mode} {b1 b2 c1 c2 : Byte}
    (h : [b1, b2].take (m.length - 1) = [c1, c2].take (m.length - 1)) : m.assembled b1 b2 = m.assembled c1 c2 := by
  cases m with
  | imp | acc | unk => rfl
  | _ =>
    cases h
    rfl

/-- Bytes beyond the length byte 0 fixes make no difference (R69). -/
theorem assemble_congr {b0 b1 b2 c1 c2 : Byte}
    (h : [b1, b2].take (lengthOf b0 - 1) = [c1, c2].take (lengthOf b0 - 1)) :
    assemble b0 b1 b2 = assemble b0 c1 c2 := by
  have ho : (defaultDefinition b0).mode.assembled b1 b2 = (defaultDefinition b0).mode.assembled c1 c2 :=
    Mode.assembled_congr h
  have hc := assemble_of_operand (b1 := b1) (b2 := b2) (assemble_wellFormed b0 c1 c2)
    (by rw [assemble_mode, assemble_operand, ho])
  rwa [assemble_opcode] at hc

/-! ### Decoding -/

theorem lengthOf_cases (b0 : Byte) : lengthOf b0 = 1 ∨ lengthOf b0 = 2 ∨ lengthOf b0 = 3 := by
  have h : 1 ≤ lengthOf b0 ∧ lengthOf b0 ≤ 3 := Mode.length_bounds _
  omega

theorem decode_of_length_one {b0 : Byte} (h : lengthOf b0 = 1) (rest : List Byte) :
    decode (b0 :: rest) = .ok (assemble b0 0 0, rest) := by
  simp only [decode, h]

theorem decode_of_length_two {b0 : Byte} (h : lengthOf b0 = 2) (b1 : Byte) (rest : List Byte) :
    decode (b0 :: b1 :: rest) = .ok (assemble b0 b1 0, rest) := by
  simp only [decode, h]

theorem decode_of_length_three {b0 : Byte} (h : lengthOf b0 = 3) (b1 b2 : Byte) (rest : List Byte) :
    decode (b0 :: b1 :: b2 :: rest) = .ok (assemble b0 b1 b2, rest) := by
  simp only [decode, h]

/-- The words of an assembled instruction decode to it. -/
theorem decode_encode_assemble (b0 b1 b2 : Byte) (rest : List Byte) :
    decode (encode (assemble b0 b1 b2) ++ rest) = .ok (assemble b0 b1 b2, rest) := by
  rw [encode_assemble]
  rcases lengthOf_cases b0 with h | h | h
  · rw [assemble_congr (c1 := 0) (c2 := 0) (by rw [h]; rfl), h]
    exact decode_of_length_one h rest
  · rw [assemble_congr (c1 := b1) (c2 := 0) (by rw [h]; rfl), h]
    exact decode_of_length_two h b1 rest
  · rw [h]
    exact decode_of_length_three h b1 b2 rest

/-- What decodes is assembled, from the bytes it was read from. -/
theorem exists_assemble_of_decode {bytes rest : List Byte} {i : Instr} (h : decode bytes = .ok (i, rest)) :
    ∃ b0 b1 b2, i = assemble b0 b1 b2 ∧ encode i ++ rest = bytes := by
  unfold decode at h
  split at h
  · cases h
  · next b0 operands =>
    split at h
    · next hlen =>
      cases h
      exact ⟨b0, 0, 0, rfl, by rw [encode_assemble, hlen]; rfl⟩
    · next b1 rest' hlen =>
      cases h
      exact ⟨b0, b1, 0, rfl, by rw [encode_assemble, hlen]; rfl⟩
    · next b1 b2 rest' hlen =>
      cases h
      exact ⟨b0, b1, b2, rfl, by rw [encode_assemble, hlen]; rfl⟩
    · cases h

/-- Settles O1: a well-formed instruction is an assembled one. -/
theorem decodeOfEncode : Obligations.DecodeOfEncode := by
  intro i rest hwf
  obtain ⟨b0, b1, b2, rfl⟩ := hwf.exists_assemble
  exact decode_encode_assemble b0 b1 b2 rest

/-- Settles O2: what decodes is assembled, and so well formed. -/
theorem encodeOfDecode : Obligations.EncodeOfDecode := by
  intro bytes i rest h
  obtain ⟨b0, b1, b2, rfl, hbytes⟩ := exists_assemble_of_decode h
  exact ⟨assemble_wellFormed b0 b1 b2, hbytes⟩

/-- Settles O3, from the row `assemble` selects. -/
theorem opcodeByteFixesForm : Obligations.OpcodeByteFixesForm := by
  intro b0 b1 b2 c1 c2
  refine ⟨assemble_opcode b0 b1 b2, ?_, ?_, ?_, ?_, ?_, Mode.length_bounds _⟩
  · rw [assemble_mnemonic, assemble_mnemonic]
  · rw [assemble_mode, assemble_mode]
  · rw [assemble_baseCycles, assemble_baseCycles]
  · rw [assemble_penalty, assemble_penalty]
  · exact congrArg Mode.length (assemble_mode b0 b1 b2)

/-! ### The counts of the opcode map -/

/-- The default table, row by row (R65). -/
def tableRows : List Form := (List.range 256).map fun n => (assemble (BitVec.ofNat 8 n) 0 0).form

theorem tableRows_length : tableRows.length = 256 := by rw [tableRows, List.length_map, List.length_range]

theorem tableRows_unknown : (tableRows.filter fun f => f.mnemonic = .unknown).length = 105 := by decide

theorem tableRows_supported : (tableRows.filter fun f => f.mnemonic ≠ .unknown).length = 151 := by
  have h := tableRows.length_eq_length_filter_add fun f => decide (f.mnemonic = .unknown)
  rw [tableRows_length, tableRows_unknown] at h
  simp only [ne_eq, decide_not]
  omega

theorem tableRows_pageCross : (tableRows.filter fun f => f.penalty = .pageCross).length = 23 := by decide

theorem tableRows_branch : (tableRows.filter fun f => f.penalty = .branch).length = 8 := by decide

/-- The table has a row for every mnemonic of R71 and for the sentinel. -/
theorem tableRows_mnemonics_perm :
    (tableRows.map fun f => f.mnemonic).dedup.Perm ((List.range 57).map Mnemonic.ofNat) := by
  refine (List.perm_ext_iff_of_nodup (List.nodup_dedup _) (by decide)).mpr fun m => ?_
  rw [List.mem_dedup]
  exact iff_of_true (by cases m <;> decide) (by cases m <;> decide)

theorem tableRows_mnemonics :
    ((tableRows.map fun f => f.mnemonic).dedup.filter fun m => m ≠ .unknown).length = 56 :=
  (tableRows_mnemonics_perm.filter _).length_eq.trans (by decide)

theorem unknownOpcodes_nodup : unknownOpcodes.Nodup := by decide

/-- Settles O4: the counts over the 256 rows, and the listed bytes as the ones that assemble to the sentinel. -/
theorem unknownOpcodesAreTheListed : Obligations.UnknownOpcodesAreTheListed := by
  refine ⟨⟨tableRows_supported, tableRows_unknown, tableRows_pageCross, tableRows_branch, tableRows_mnemonics⟩, rfl,
    unknownOpcodes_nodup, fun op b1 b2 => ⟨assemble_mnemonic_unknown_iff op b1 b2, fun h => ?_⟩⟩
  have hi := assemble_unknown h b1 b2
  have hlen : lengthOf op = 1 := congrArg Instr.length (assemble_unknown h 0 0)
  rw [hi]
  exact ⟨rfl, rfl, rfl, hlen, rfl, rfl⟩

/-- Settles O5: each word read by the length of its first byte. -/
theorem spelledWordsDecode : Obligations.SpelledWordsDecode :=
  ⟨rfl, rfl, rfl, rfl, rfl, rfl, rfl, rfl, rfl, rfl, rfl, rfl, rfl, rfl, rfl⟩

end Sys2Proof
end

section
/-!
PROOFS. The two ways of a step agree (R63, R64, R80). Nothing but the choice of the definition reads the rows of the
configured table: every operation within a step commutes with putting other rows in their place.
-/

namespace Sys2Proof.Machine

/-- The state with other rows in its configured opcode table (R6). -/
def State.withOpcodes (s : State) (rows : List InstructionDef) : State :=
  { s with config := { s.config with opcodes := rows } }

/-- The same for what the resolver gives. -/
def Resolved.withOpcodes (r : Resolved) (rows : List InstructionDef) : Resolved :=
  { r with state := r.state.withOpcodes rows }

variable (s : State) (rows : List InstructionDef)

/-! ### The bus and the stack -/

theorem setP_withOpcodes (v : Byte) : (s.withOpcodes rows).setP v = (s.setP v).withOpcodes rows := rfl

theorem setPc_withOpcodes (v : Word) : (s.withOpcodes rows).setPc v = (s.setPc v).withOpcodes rows := rfl

theorem memRead_withOpcodes (addr : Word) :
    memRead (s.withOpcodes rows) addr = ((memRead s addr).1, (memRead s addr).2.withOpcodes rows) := rfl

theorem readWord_withOpcodes (lo hi : Word) :
    readWord (s.withOpcodes rows) lo hi = ((readWord s lo hi).1, (readWord s lo hi).2.withOpcodes rows) := by
  simp only [readWord, memRead_withOpcodes]

theorem routeWrite_withOpcodes (addr : Word) (v : Byte) :
    (s.withOpcodes rows).routeWrite addr v = (s.routeWrite addr v).withOpcodes rows := by
  simp only [State.routeWrite, apply_ite (State.withOpcodes · rows)]
  rfl

theorem memWrite_withOpcodes (addr : Word) (v : Byte) :
    memWrite (s.withOpcodes rows) addr v = (memWrite s addr v).withOpcodes rows := by
  rw [memWrite, routeWrite_withOpcodes]; rfl

theorem push_withOpcodes (v : Byte) : push (s.withOpcodes rows) v = (push s v).withOpcodes rows := by
  rw [push, memWrite_withOpcodes]; rfl

theorem pushWord_withOpcodes (w : Word) : pushWord (s.withOpcodes rows) w = (pushWord s w).withOpcodes rows := by
  rw [pushWord, push_withOpcodes, push_withOpcodes, pushWord]

theorem pull_withOpcodes : pull (s.withOpcodes rows) = ((pull s).1, (pull s).2.withOpcodes rows) := rfl

theorem pullWord_withOpcodes : pullWord (s.withOpcodes rows) = ((pullWord s).1, (pullWord s).2.withOpcodes rows) := by
  simp only [pullWord, pull_withOpcodes]

theorem returnFromCall_withOpcodes : returnFromCall (s.withOpcodes rows) = (returnFromCall s).withOpcodes rows := by
  simp only [returnFromCall, pullWord_withOpcodes, setPc_withOpcodes]

theorem returnFromInterrupt_withOpcodes :
    returnFromInterrupt (s.withOpcodes rows) = (returnFromInterrupt s).withOpcodes rows := by
  simp only [returnFromInterrupt, pull_withOpcodes, setP_withOpcodes, pullWord_withOpcodes, setPc_withOpcodes]

/-- The trap entry takes its vector from the configuration, which keeps it (R201). -/
theorem softwareInterrupt_withOpcodes (ret : Word) :
    softwareInterrupt (s.withOpcodes rows) ret = (softwareInterrupt s ret).withOpcodes rows := by
  have hvector : (s.withOpcodes rows).config.brkVector = s.config.brkVector := rfl
  have hp (t : State) : (t.withOpcodes rows).p = t.p := rfl
  simp only [softwareInterrupt, hp, hvector, pushWord_withOpcodes, push_withOpcodes, setP_withOpcodes,
    readWord_withOpcodes, setPc_withOpcodes]

/-! ### Fetch, resolver, behaviours -/

theorem fetchBytes_withOpcodes (n : Nat) :
    fetchBytes n (s.withOpcodes rows) =
      ((fetchBytes n s).1, (fetchBytes n s).2.1, (fetchBytes n s).2.2.withOpcodes rows) := by
  unfold fetchBytes
  split <;> rfl

theorem resolve_withOpcodes (o : Operand) : resolve o (s.withOpcodes rows) = (resolve o s).withOpcodes rows := by
  cases o <;> rfl

theorem resolveMode_withOpcodes (m : Mode) :
    resolveMode m (s.withOpcodes rows) = (resolveMode m s).withOpcodes rows := by
  unfold resolveMode
  split
  · rfl
  · rw [fetchBytes_withOpcodes]
    exact resolve_withOpcodes ..

theorem branchAt_withOpcodes (cond : Bool) (r : Resolved) :
    branchAt cond (r.withOpcodes rows) = ((branchAt cond r).1.withOpcodes rows, (branchAt cond r).2) := by
  cases cond <;> rfl

theorem modifyIn_withOpcodes {f : Byte → State → Byte × State}
    (hf : ∀ m t, f m (t.withOpcodes rows) = ((f m t).1, (f m t).2.withOpcodes rows)) (mode : Mode) (r : Resolved) :
    modifyIn mode f (r.withOpcodes rows) = (modifyIn mode f r).withOpcodes rows := by
  unfold modifyIn
  split
  · exact congrArg (fun p : Byte × State => p.2.setA p.1) (hf r.state.a r.state)
  · have hm := hf (memRead r.state r.addr).1 (memRead r.state r.addr).2
    exact (congrArg (fun p : Byte × State => memWrite p.2 r.addr p.1) hm).trans (memWrite_withOpcodes ..)

/-- No behaviour reads the rows (R98), by what it does to the bus: modify, store, branch, push, or only reads and
registers. -/
theorem execute_withOpcodes (m : Mnemonic) (mode : Mode) (r : Resolved) :
    execute m mode (r.withOpcodes rows) = ((execute m mode r).1.withOpcodes rows, (execute m mode r).2) := by
  cases m with
  | inc | dec | asl | lsr | rol | ror => exact Prod.ext (modifyIn_withOpcodes rows (fun _ _ => rfl) mode r) rfl
  | sta | stx | sty => exact Prod.ext (memWrite_withOpcodes ..) rfl
  | bcc | bcs | beq | bne | bmi | bpl | bvc | bvs => exact branchAt_withOpcodes rows _ r
  | pha | php => exact Prod.ext (push_withOpcodes ..) rfl
  | jsr => exact Prod.ext (congrArg (State.setPc · r.addr) (pushWord_withOpcodes r.state rows (r.state.pc - 1))) rfl
  | brk => exact Prod.ext (softwareInterrupt_withOpcodes ..) rfl
  | rts => exact Prod.ext (returnFromCall_withOpcodes ..) rfl
  | rti => exact Prod.ext (returnFromInterrupt_withOpcodes ..) rfl
  | _ => rfl

/-! ### The step -/

theorem runDefinition_withOpcodes (d : InstructionDef) :
    runDefinition d (s.withOpcodes rows) = (runDefinition d s).withOpcodes rows := by
  unfold runDefinition
  rw [resolveMode_withOpcodes]
  dsimp only
  rw [execute_withOpcodes]
  rfl

/-- Rows that repeat the default table give every byte its default definition (R63). -/
theorem definition_of_default_rows {c : Configuration} (h : ∀ d ∈ c.opcodes, d = defaultDefinition d.opcode)
    (op : Byte) : c.definition op = defaultDefinition op := by
  cases hr : c.row op with
  | none => exact c.definition_noRow hr
  | some d =>
    obtain ⟨hmem, hop⟩ := Configuration.row_some hr
    rw [c.definition_row hr, h d hmem, hop]

/-- Other rows change no step on a byte whose definition they keep. -/
theorem step_withOpcodes {s t : State} (hdef : definitionAtPc (s.withOpcodes rows) = definitionAtPc s)
    (h : step s = .next t) : step (s.withOpcodes rows) = .next (t.withOpcodes rows) := by
  have hfetch : (fetch8 (beginStep (s.withOpcodes rows))).2 = (fetch8 (beginStep s)).2.withOpcodes rows := rfl
  rw [step_eq] at h
  cases h
  rw [step_eq, hdef, hfetch, runDefinition_withOpcodes]
  rfl

/-- Settles O8: with either list of rows the byte at `PC` has its definition of the default table. -/
theorem rowsOfTheDefaultTableChangeNothing : Obligations.RowsOfTheDefaultTableChangeNothing := by
  intro s t rows hrows h
  have hdef : definitionAtPc ((s.withOpcodes []).withOpcodes rows) = definitionAtPc (s.withOpcodes []) :=
    (definition_of_default_rows hrows _).trans (Configuration.definition_noRow rfl).symm
  have hconfig : t.config = { s.config with opcodes := [] } := congrArg Parameters.config (step_parameters h)
  calc step (s.withOpcodes rows)
      = .next (t.withOpcodes rows) := step_withOpcodes (s := s.withOpcodes []) rows hdef h
    _ = .next { t with config := { s.config with opcodes := rows } } := by rw [State.withOpcodes, hconfig]

end Sys2Proof.Machine
end

section
/-!
PROOFS. What a row of the configured opcode table does (R64, R84, R86, R98, R99): the resolver, the behaviour of its
mnemonic as `exec` has it for the forms of the default table, the branches, INC and DEC of A, and the cost.
-/

namespace Sys2Proof.Machine

/-! ### The resolver -/

/-- The resolver by the length of the mode: IMM gives its byte's location, every other mode fetches its operand bytes and
resolves the operand they assemble (R84 to R97). -/
theorem resolveMode_eq (m : Mode) (s : State) :
    if m = .imm then resolveMode m s = ⟨s.pc, false, { s with pc := s.pc + 1 }⟩
    else if m.length = 1 then resolveMode m s = resolve (m.assembled 0 0) s
    else if m.length = 2 then resolveMode m s = resolve (m.assembled (fetch8 s).1 0) (fetch8 s).2
    else resolveMode m s =
      resolve (m.assembled (fetch8 s).1 (fetch8 (fetch8 s).2).1) (fetch8 (fetch8 s).2).2 := by
  cases m <;> rfl

theorem resolveMode_p (m : Mode) (s : State) : (resolveMode m s).state.p = s.p := by
  obtain ⟨pc, d, l, k, h⟩ := resolveMode_state m s
  rw [h]

/-! ### One behaviour for the forms of a mnemonic -/

/-- A behaviour that has a form without an operand uses neither the address nor the mode (R64). -/
theorem execute_of_noOperand {i : Instr} (h : i.operand = .imp ∨ i.operand = .unk) (mode : Mode) (r : Resolved) :
    execute i.mnemonic mode r = execute i.mnemonic i.operand.mode (resolve i.operand r.state) := by
  cases i with
  | tax | tay | txa | tya | tsx | txs | inx | iny | dex | dey | rts | pha | php | pla | plp | clc | sec | cli | sei | cld
  | sed | clv | nop | brk | rti | unknown => rfl
  | _ => rcases h with h | h <;> cases h

/-- The forms of a mnemonic without an operand, on A, or on the resolved address do what the row does (R64, R86). -/
theorem execute_resolveMode {i : Instr} {mode : Mode} {s : State}
    (h : i.operand = .imp ∨ i.operand = .unk ∨
      (if mode = .acc then i.operand = .acc else i.operand = .abs (resolveMode mode s).addr)) :
    execute i.mnemonic mode (resolveMode mode s) =
      execute i.mnemonic i.operand.mode (resolve i.operand (resolveMode mode s).state) := by
  rcases h with h | h | h
  · exact execute_of_noOperand (.inl h) ..
  · exact execute_of_noOperand (.inr h) ..
  · split at h
    · next hacc => subst hacc; rw [h]; rfl
    · next hacc => rw [h]; exact execute_mode _ _ false hacc nofun

/-- In the state past the resolver, `exec` of such a form leaves what the row leaves, but for the cycles (R64, R98). -/
theorem exec_next_of_row {d : InstructionDef} {i : Instr} {s : State} (hm : i.mnemonic = d.mnemonic)
    (h : i.operand = .imp ∨ i.operand = .unk ∨
      (if d.mode = .acc then i.operand = .acc else i.operand = .abs (resolveMode d.mode s).addr)) :
    ∃ u, exec i (resolveMode d.mode s).state = .next u ∧
      runDefinition d s = { u with cycles := (runDefinition d s).cycles } := by
  have himm : i.operand.mode ≠ .imm := by
    rcases h with h | h | h
    · rw [h]; nofun
    · rw [h]; nofun
    · split at h <;> rw [h] <;> nofun
  refine ⟨_, exec_eq_execute i _ himm, ?_⟩
  rw [← execute_resolveMode h, hm]
  rfl

/-! ### Branches -/

theorem branchAt_taken (cond : Bool) (r : Resolved) : (branchAt cond r).2 = cond := by cases cond <;> rfl

/-- A behaviour is a branch taken exactly when it is a branch whose condition holds (R163 to R171). -/
theorem execute_taken_iff (m : Mnemonic) (mode : Mode) (r : Resolved) :
    (execute m mode r).2 = true ↔ BranchTaken m r.state.p := by
  cases m <;> simp [execute, branchAt_taken, BranchTaken]

/-- A branch goes to the resolved address when it is taken, and changes nothing when it is not (R163). -/
theorem execute_branch {m : Mnemonic} (hm : m ∈ [.bcc, .bcs, .beq, .bne, .bmi, .bpl, .bvc, .bvs]) (mode : Mode)
    (r : Resolved) :
    ((execute m mode r).2 = true → (execute m mode r).1 = r.state.setPc r.addr) ∧
      ((execute m mode r).2 = false → (execute m mode r).1 = r.state) := by
  have hbranch (cond : Bool) :
      ((branchAt cond r).2 = true → (branchAt cond r).1 = r.state.setPc r.addr) ∧
        ((branchAt cond r).2 = false → (branchAt cond r).1 = r.state) := by
    cases cond
    · exact ⟨nofun, fun _ => rfl⟩
    · exact ⟨fun _ => rfl, nofun⟩
  cases m with
  | bcc | bcs | beq | bne | bmi | bpl | bvc | bvs => exact hbranch _
  | _ => exact absurd hm (by decide)

/-- What a row of a branch leaves besides its cost, by the condition of the branch (R163 to R171). -/
theorem runDefinition_branch {d : InstructionDef}
    (hm : d.mnemonic ∈ [.bcc, .bcs, .beq, .bne, .bmi, .bpl, .bvc, .bvs]) (s : State) :
    let r := resolveMode d.mode s
    let t := runDefinition d s
    (BranchTaken d.mnemonic r.state.p → t = { r.state with pc := r.addr, cycles := t.cycles }) ∧
      (¬ BranchTaken d.mnemonic r.state.p → t = { r.state with cycles := t.cycles }) := by
  intro r t
  obtain ⟨htaken, hnot⟩ := execute_branch hm d.mode r
  have ht : t = { (execute d.mnemonic d.mode r).1 with cycles := t.cycles } := rfl
  rw [← execute_taken_iff d.mnemonic d.mode r, Bool.not_eq_true]
  refine ⟨fun h => ?_, fun h => ?_⟩
  · rwa [htaken h] at ht
  · rwa [hnot h] at ht

/-! ### Cost -/

theorem runDefinition_cycles (d : InstructionDef) (s : State) :
    let r := resolveMode d.mode s
    (runDefinition d s).cycles =
      s.cycles + d.cost s.config.branchCrossExtra r.crossed (execute d.mnemonic d.mode r).2 := by
  have hstable := stable_counters s.counters
  have h : (execute d.mnemonic d.mode (resolveMode d.mode s)).1.counters = s.counters :=
    hstable.execute _ _ (hstable.resolveMode _ rfl)
  exact congrArg (fun c : Nat × Nat × Nat => c.1 + _) h

theorem cost_taken_eq (d : InstructionDef) (crossExtra : Nat) (crossed : Bool) :
    d.cost crossExtra crossed true =
      d.baseCycles + (if d.penalty = .pageCross ∧ crossed = true then 1 else 0) + (if d.penalty = .branch then 1 else 0) +
        (if d.penalty = .branch ∧ crossed = true then crossExtra else 0) := by
  unfold InstructionDef.cost
  cases d.penalty <;> cases crossed <;> simp [Nat.add_assoc]

theorem cost_untaken_eq (d : InstructionDef) (crossExtra : Nat) (crossed : Bool) :
    d.cost crossExtra crossed false =
      d.baseCycles + (if d.penalty = .pageCross ∧ crossed = true then 1 else 0) := by
  simp [InstructionDef.cost]

/-! ### INC and DEC of A -/

/-- The mnemonics that count A in mode ACC: by 1, or by 255 modulo 256 (R86, R139, R140). -/
theorem execute_count_acc {m : Mnemonic} (hm : m = .inc ∨ m = .dec) (r : Resolved) :
    ∃ v : Byte, v.toNat = (r.state.a.toNat + (if m = .inc then 1 else 255)) % 256 ∧
      execute m .acc r = ((r.state.setZN v).setA v, false) := by
  rcases hm with rfl | rfl
  · exact ⟨r.state.a + 1, BitVec.toNat_add .., rfl⟩
  · refine ⟨r.state.a - 1, ?_, rfl⟩
    rw [BitVec.toNat_sub, Nat.add_comm]
    rfl

theorem flagsZN_of_withZN {v : Byte} {t : State} {p : Byte} (h : t.p = withZN p v) : FlagsZN v t := by
  constructor <;> rw [h, getFlag_withZN] <;> rfl

theorem keepsFlagsBut_of_withZN {v : Byte} {s t : State} (h : t.p = withZN s.p v) : KeepsFlagsBut [.z, .n] s t := by
  intro f hf
  obtain ⟨hz, hn⟩ : f ≠ .z ∧ f ≠ .n := by simpa using hf
  rw [h, getFlag_withZN, if_neg hn, if_neg hz]

theorem runDefinition_count_acc {d : InstructionDef} {s : State} (hmode : d.mode = .acc)
    (hm : d.mnemonic = .inc ∨ d.mnemonic = .dec) :
    let t := runDefinition d s
    t = { (resolveMode d.mode s).state with a := t.a, p := t.p, cycles := t.cycles } ∧
      t.a.toNat = (s.a.toNat + (if d.mnemonic = .inc then 1 else 255)) % 256 ∧ FlagsZN t.a t ∧
      KeepsFlagsBut [.z, .n] s t := by
  obtain ⟨v, hv, hexec⟩ := execute_count_acc hm (resolveMode .acc s)
  have ht : runDefinition d s =
      (((s.setZN v).setA v).addCycles (d.cost s.config.branchCrossExtra false false)) := by
    rw [runDefinition, hmode, hexec]
    rfl
  rw [ht, hmode]
  exact ⟨rfl, hv, flagsZN_of_withZN rfl, keepsFlagsBut_of_withZN rfl⟩

/-- Settles O7: the resolver, the forms of `exec`, the branches, INC and DEC of A, and the cost, each by its lemma. -/
theorem configuredRowRunsItsMnemonic : Obligations.ConfiguredRowRunsItsMnemonic := by
  intro d s r t
  have htaken : (execute d.mnemonic d.mode r).2 = true ↔ BranchTaken d.mnemonic s.p :=
    resolveMode_p d.mode s ▸ execute_taken_iff d.mnemonic d.mode r
  have hcycles : t.cycles = s.cycles + _ := runDefinition_cycles d s
  refine ⟨resolveMode_eq d.mode s, fun _ => exec_next_of_row, fun hm => runDefinition_branch hm s,
    runDefinition_count_acc, fun h => ?_, fun h => ?_, cost_taken_eq .., cost_untaken_eq ..⟩
  · rw [hcycles, htaken.mpr h]
  · rw [hcycles, Bool.eq_false_iff.mpr (mt htaken.mp h)]

end Sys2Proof.Machine
end

section
/-!
PROOFS. The addresses of the modes in numbers (R88 to R98), and the stack (R102, R103). Each address function of the
resolver is said once in numbers; the resolver's cases are then read off.
-/

namespace Sys2Proof.Machine

/-! ### Address arithmetic -/

theorem indexed_toNat (base : Word) (i : Byte) : (indexed base i).toNat = (base.toNat + i.toNat) % 65536 := by
  have hi : i.toNat % 65536 = i.toNat := Nat.mod_eq_of_lt (i.isLt.trans (by decide))
  rw [indexed, BitVec.toNat_add, BitVec.toNat_setWidth, hi]

/-- An indexed address crosses when its high byte differs from that of the base (R92). -/
theorem crosses_indexed_iff (base : Word) (i : Byte) :
    crosses base (indexed base i) = true ↔ (base.toNat + i.toNat) % 65536 / 256 ≠ base.toNat / 256 := by
  rw [crosses_iff, indexed_toNat]

/-- Only the low byte of a pointer is counted (R94). -/
theorem pointerHigh_toNat (ptr : Word) : (pointerHigh ptr).toNat = ptr.toNat / 256 * 256 + (ptr.toNat + 1) % 256 := by
  have hlow : (lowByte ptr + 1).toNat = (ptr.toNat % 256 + 1) % 256 := by rw [BitVec.toNat_add, lowByte_toNat]; rfl
  rw [pointerHigh, joinBytes_toNat, highByte_toNat, hlow]
  omega

/-- A zero-page address by its number, which wraps within the page (R233). -/
theorem zeroPage_ofNat (n : Nat) : zeroPage (BitVec.ofNat 8 n) = BitVec.ofNat 16 (n % 256) := by
  apply BitVec.eq_of_toNat_eq
  rw [zeroPage_toNat, BitVec.toNat_ofNat, BitVec.toNat_ofNat]
  omega

theorem branchTarget_toNat (pc : Word) (d : Byte) :
    ((branchTarget pc d).toNat : Int) = ((pc.toNat : Int) + d.toInt) % 65536 := by
  rw [branchTarget, BitVec.signExtend, BitVec.toNat_add, BitVec.toNat_ofInt]
  omega

/-- Settles O29, from `zeroPage_toNat`: the index is added in 8 bits. -/
theorem zeroPageAddresses : Obligations.ZeroPageAddresses := by
  intro b s
  have hindexed (i : Byte) : (zeroPage (b + i)).toNat = (b.toNat + i.toNat) % 256 :=
    (zeroPage_toNat _).trans (BitVec.toNat_add ..)
  exact ⟨⟨zeroPage_toNat b, rfl, rfl⟩, ⟨hindexed s.x, rfl, rfl⟩, hindexed s.y, rfl, rfl⟩

/-- Settles O30, from `indexed_toNat` and `crosses_indexed_iff`. -/
theorem absoluteAddresses : Obligations.AbsoluteAddresses := by
  intro a s
  exact ⟨rfl, rfl, indexed_toNat a s.x, crosses_indexed_iff a s.x, indexed_toNat a s.y, crosses_indexed_iff a s.y, rfl,
    rfl, rfl⟩

/-- Settles O31: the second read is at `pointerHigh`. -/
theorem indirectPointerWrapsInPage : Obligations.IndirectPointerWrapsInPage := by
  intro ptr next s hnext
  obtain rfl : pointerHigh ptr = next := BitVec.eq_of_toNat_eq ((pointerHigh_toNat ptr).trans hnext.symm)
  exact ⟨(joinBytes_toNat ..).trans (Nat.add_comm ..), rfl, rfl⟩

/-! ### Pointers in page zero -/

/-- A pointer read in page zero, by the number of its address: both bytes come from page zero (R95, R96, R233). -/
theorem readWord_zeroPage_ofNat (s : State) (n : Nat) :
    let lo : Word := BitVec.ofNat 16 (n % 256)
    let hi : Word := BitVec.ofNat 16 ((n + 1) % 256)
    readWord s (zeroPage (BitVec.ofNat 8 n)) (zeroPage (BitVec.ofNat 8 n + 1)) =
      (joinBytes (memPeek s hi) (memPeek s lo),
        { s with
          log := s.log ++
            [{ kind := .read, addr := lo, value := memPeek s lo, offset := s.k },
             { kind := .read, addr := hi, value := memPeek s hi, offset := s.k + 1 }]
          k := s.k + 2 }) := by
  have hsucc : BitVec.ofNat 8 n + 1 = BitVec.ofNat 8 (n + 1) := (BitVec.ofNat_add n 1).symm
  rw [hsucc, readWord_zeroPage, zeroPage_ofNat, zeroPage_ofNat]

theorem resolve_izx (b : Byte) (s : State) :
    let p := readWord s (zeroPage (b + s.x)) (zeroPage (b + s.x + 1))
    resolve (.izx b) s = ⟨p.1, false, p.2⟩ := rfl

theorem resolve_izy (b : Byte) (s : State) :
    let p := readWord s (zeroPage b) (zeroPage (b + 1))
    resolve (.izy b) s = ⟨indexed p.1 s.y, crosses p.1 (indexed p.1 s.y), p.2⟩ := rfl

/-- Settles O32: the pointer's number is the operand byte, plus `X` in IZX. -/
theorem zeroPagePointers : Obligations.ZeroPagePointers := by
  intro b s at_ word reads
  have hword (n : Nat) : (joinBytes (memPeek s (at_ (n + 1))) (memPeek s (at_ n))).toNat = word n :=
    (joinBytes_toNat ..).trans (Nat.add_comm ..)
  have hizx : b + s.x = BitVec.ofNat 8 (b.toNat + s.x.toNat) := BitVec.add_def ..
  have hizy : b = BitVec.ofNat 8 b.toNat := by rw [BitVec.ofNat_toNat, BitVec.setWidth_eq]
  have hx := readWord_zeroPage_ofNat s (b.toNat + s.x.toNat)
  have hy := readWord_zeroPage_ofNat s b.toNat
  rw [← hizx] at hx
  rw [← hizy] at hy
  constructor
  case left =>
    rw [resolve_izx, hx]
    exact ⟨hword _, rfl, rfl⟩
  case right =>
    rw [resolve_izy, hy, ← hword]
    exact ⟨indexed_toNat _ s.y, crosses_indexed_iff _ s.y, rfl⟩

/-- Settles O33, from `branchTarget_toNat` and `crosses_iff`. -/
theorem branchTargets : Obligations.BranchTargets := by
  intro d s
  exact ⟨branchTarget_toNat s.pc d, crosses_iff s.pc (branchTarget s.pc d), rfl⟩

/-! ### The operand byte -/

/-- In every mode but IMM the operand is one read at the resolved address (R98). -/
theorem readOperand_eq {o : Operand} (h : o.mode ≠ .imm) (s : State) :
    readOperand o s =
      (memPeek (resolve o s).state (resolve o s).addr, (resolve o s).crossed,
        (memRead (resolve o s).state (resolve o s).addr).2) := by
  cases o with
  | imm v => exact absurd rfl h
  | _ => rfl

/-- The cross bit of the operand read is the resolver's, IMM included, which has none (R87). -/
theorem readOperand_crossed (o : Operand) (s : State) : (readOperand o s).2.1 = (resolve o s).crossed := by
  cases o <;> rfl

/-- For every mode but IND a peek gives after the resolver what it gave before. -/
theorem memPeek_resolve {o : Operand} (h : o.mode ≠ .ind) (s : State) (addr : Word) :
    memPeek (resolve o s).state addr = memPeek s addr := by
  obtain ⟨l, k, hstate⟩ := resolve_state_log o s h
  rw [hstate]
  exact memPeek_congr rfl rfl rfl rfl rfl (.inl ⟨rfl, rfl⟩)

/-- Settles O34, from the one equation of the operand read. -/
theorem operandByte : Obligations.OperandByte := by
  intro o s
  refine ⟨fun v h => h ▸ rfl, fun h => ?_⟩
  have himm : o.mode ≠ .imm := fun e => absurd (e ▸ h) (by decide)
  have hind : o.mode ≠ .ind := fun e => absurd (e ▸ h) (by decide)
  rw [readOperand_eq himm]
  exact ⟨memPeek_resolve hind s _, rfl, rfl⟩

/-! ### The stack -/

/-- A push leaves its byte at the slot `S` named (R102). -/
theorem memPeek_push {s : State} (hwf : s.ram.wf = true) (v : Byte) : memPeek (push s v) (slotAbove s.sp 0) = v := by
  rw [slotAbove_eq, BitVec.add_zero, memPeek_ram _ (stackAddr_lt _), stackAddr_cell, push_eq, Memory.read_write hwf,
    if_pos rfl]

/-- A pull gives the byte at the slot above the one `S` names (R103). -/
theorem pull_fst (s : State) : (pull s).1 = memPeek s (slotAbove s.sp 1) := by
  rw [slotAbove_eq, memPeek_ram _ (stackAddr_lt _), stackAddr_cell, pull_eq]
  rfl

/-- Settles O28, from the one equation each of push and pull. -/
theorem pullAfterPush : Obligations.PullAfterPush := by
  intro s v hwf
  have hlower : (push s v).sp = s.sp - 1 := by rw [push_eq]
  have hraise : (push s v).sp + 1 = s.sp := by rw [hlower, BitVec.sub_add_cancel]
  have hslot : slotAbove (push s v).sp 1 = slotAbove s.sp 0 := by
    rw [slotAbove_eq, slotAbove_eq, BitVec.add_zero]
    exact congrArg stackAddr hraise
  refine ⟨?_, memPeek_push hwf v, ?_, ?_, rfl, pull_fst s, BitVec.toNat_add ..⟩
  · rw [hlower, BitVec.toNat_sub, Nat.add_comm]
    rfl
  · rw [pull_fst, hslot, memPeek_push hwf]
  · exact hraise

end Sys2Proof.Machine
end

section
/-!
PROOFS. The step around the instruction (R80 to R83, R99, R100, R106): the fetch of the bytes at `PC`, the instruction
decoded from them, the audit record, and the exact cost of every instruction.
-/

namespace Sys2Proof.Machine

/-! ### The fetch -/

/-- The micro-op of the fetch of byte `n` of the instruction at `PC` (R82). -/
def fetchedRead (s : State) (n : Nat) : MicroOp :=
  { kind := .read, addr := s.pc + BitVec.ofNat 16 n, value := memPeek s (s.pc + BitVec.ofNat 16 n), offset := n }

/-- The state within a step that has fetched the first `n` bytes at `PC`, none of them a device register (R81, R82). -/
def State.fetched (s : State) (n : Nat) : State :=
  { s with
    startCycle := s.cycles
    pc := s.pc + BitVec.ofNat 16 n
    log := (List.range n).map (fetchedRead s)
    k := n }

/-- A step begins with nothing fetched (R81). -/
theorem beginStep_eq_fetched (s : State) : beginStep s = s.fetched 0 := by
  rw [State.fetched, BitVec.add_zero]; rfl

/-- A fetch of a byte of memory reads it and goes on to the next (R82, R15). -/
theorem fetch8_fetched {s : State} {n : Nat} (h : IsMemory s (s.pc + BitVec.ofNat 16 n)) :
    fetch8 (s.fetched n) = (memPeek s (s.pc + BitVec.ofNat 16 n), s.fetched (n + 1)) := by
  have hpeek : memPeek (s.fetched n) (s.pc + BitVec.ofNat 16 n) = memPeek s (s.pc + BitVec.ofNat 16 n) := rfl
  have hdev : ((s.fetched n).route (s.pc + BitVec.ofNat 16 n)).2 = s.dev := route_dev (s.fetched n) h
  have hpc : s.pc + BitVec.ofNat 16 n + 1 = s.pc + BitVec.ofNat 16 (n + 1) := by
    rw [BitVec.add_assoc, BitVec.ofNat_add]; rfl
  rw [fetch8_eq]
  simp only [State.fetched] at hdev hpeek ⊢
  rw [hdev, hpeek, hpc, List.range_succ, List.map_append]
  rfl

/-- Settles O9, by the length the opcode byte fixes. -/
theorem fetchReadsBytesAtPc : Obligations.FetchReadsBytesAtPc := by
  intro s h0 h1 h2 i read opcode
  have hopcode : opcode = (memPeek s s.pc, s.fetched 1) := by
    have h := fetch8_fetched (s := s) (n := 0) (by rwa [BitVec.add_zero])
    rwa [← beginStep_eq_fetched, BitVec.add_zero] at h
  have hlength : i.length = lengthOf (memPeek s s.pc) := congrArg Mode.length (assemble_mode ..)
  refine ⟨congrArg Prod.fst hopcode, ?_⟩
  show _ = (i, s.fetched i.length)
  rw [hopcode, hlength]
  rcases lengthOf_cases (memPeek s s.pc) with h | h | h
  · rw [fetchOperands_one h, h]
    exact Prod.ext (assemble_congr (by rw [h]; rfl)) rfl
  · rw [fetchOperands_two h, h, fetch8_fetched h1]
    exact Prod.ext (assemble_congr (by rw [h]; rfl)) rfl
  · rw [fetchOperands_three h, h, fetch8_fetched h1, fetch8_fetched h2]
    rfl

/-! ### The instruction decoded -/

/-- Where the bytes read one after the other decode to an instruction, the step fetches it, and no byte beyond it (R69,
R82, R83). -/
theorem fetchOperands_of_decode {op : Byte} {s : State} {i : Instr} {rest : List Byte}
    (h : decode [op, (fetch8 s).1, (fetch8 (fetch8 s).2).1] = .ok (i, rest)) :
    fetchOperands op s =
      (i, if i.length = 1 then s else if i.length = 2 then (fetch8 s).2 else (fetch8 (fetch8 s).2).2) := by
  have hlength (b1 b2 : Byte) : (assemble op b1 b2).length = lengthOf op := congrArg Mode.length (assemble_mode ..)
  rcases lengthOf_cases op with hop | hop | hop
  · rw [decode_of_length_one hop] at h
    cases h
    rw [fetchOperands_one hop, hlength, hop]
    rfl
  · rw [decode_of_length_two hop] at h
    cases h
    rw [fetchOperands_two hop, hlength, hop]
    rfl
  · rw [decode_of_length_three hop] at h
    cases h
    rw [fetchOperands_three hop, hlength, hop]
    rfl

/-- Settles O6, by whether the configured table has a row for the byte at `PC`. -/
theorem stepRunsDecodedInstruction : Obligations.StepRunsDecodedInstruction := by
  intro s f1 f2 f3
  refine ⟨fun h => Configuration.row_default (by rw [h]; rfl) f1.1, fun d hd => ?_, fun i rest hrow hdecode => ?_⟩
  · obtain ⟨hmem, hopcode⟩ := Configuration.row_some hd
    exact ⟨hmem, hopcode, step_of_row hd⟩
  · have hfetch := fetchOperands_of_decode hdecode
    have hexec := exec_fetched f1.1 f1.2
    have hstep := step_of_exec hrow hexec
    rw [show fetchOperands (memPeek s s.pc) (fetch8 (beginStep s)).2 = _ from hfetch] at hstep
    rw [hfetch] at hexec
    refine ⟨(encodeOfDecode _ i rest hdecode).1, ?_⟩
    rw [hexec]
    exact hstep

/-! ### The audit record -/

/-- Settles O10, from the one equation of a step. -/
theorem everyStepCompletes : Obligations.EveryStepCompletes :=
  fun s => ⟨_, _, step_eq s, rfl⟩

/-- Settles O13: up to the record the step has moved neither `seq` nor the start cycle nor the configuration. -/
theorem auditRecordOfStep : Obligations.AuditRecordOfStep := by
  intro s t h
  rw [step_eq] at h
  cases h
  obtain ⟨crossed, taken, hcounters⟩ := runDefinition_counters (definitionAtPc s) (fetch8 (beginStep s)).2
  have hseq : (runDefinition (definitionAtPc s) (fetch8 (beginStep s)).2).seq = s.seq :=
    congrArg (fun c : Nat × Nat × Nat => c.2.1) hcounters
  have hstart : (runDefinition (definitionAtPc s) (fetch8 (beginStep s)).2).startCycle = s.cycles :=
    congrArg (fun c : Nat × Nat × Nat => c.2.2) hcounters
  have hconfig : (runDefinition (definitionAtPc s) (fetch8 (beginStep s)).2).config = s.config :=
    congrArg Parameters.config (runDefinition_parameters ..)
  refine ⟨congrArg (· + 1) hseq, hstart, ?_⟩
  rw [endStep_audit, hseq, hstart, hconfig]
  rfl

/-- Settles O15: the count is `step_recorded`, the bound that of O14. -/
theorem microOpCountOfStep : Obligations.MicroOpCountOfStep := by
  intro s t h
  obtain ⟨-, -, -, hbound⟩ := microOpsNumberedFromOpcodeFetch s t h
  exact ⟨step_recorded h, fun hconfig => hbound (.inr hconfig)⟩

/-! ### The cost of an instruction -/

/-- An instruction with an immediate operand adds the cost of its row, and moves the counter by nothing else (R99). -/
theorem exec_imm {i : Instr} (h : i.operand.mode = .imm) (s : State) :
    ∃ u : State, exec i s = .next (u.addCycles (i.form.definition.cost s.config.branchCrossExtra false false)) ∧
      u.cycles = s.cycles := by
  cases i with
  | ldaImm | ldxImm | ldyImm | adcImm | sbcImm | andImm | oraImm | eorImm | cmpImm | cpxImm | cpyImm =>
    exact ⟨_, rfl, rfl⟩
  | _ => cases h

/-- What every instruction adds to `cycles`: the cost of its row, with the cross bit of its address and the condition of
its branch (R99). -/
theorem exec_cycles (i : Instr) (s : State) :
    ∃ t taken, exec i s = .next t ∧ (taken = true ↔ BranchTaken i.mnemonic s.p) ∧
      t.cycles = s.cycles + i.form.definition.cost s.config.branchCrossExtra (resolve i.operand s).crossed taken := by
  by_cases himm : i.operand.mode = .imm
  · obtain ⟨u, hexec, hcycles⟩ := exec_imm himm s
    obtain ⟨f, -, hexecute⟩ := imm_readsOperand i himm
    have huntaken : false = true ↔ BranchTaken i.mnemonic s.p := by
      have h := execute_taken_iff i.mnemonic .imm ⟨0, false, s⟩
      rwa [hexecute] at h
    have hcrossed : (resolve i.operand s).crossed = false := by
      cases ho : i.operand with
      | imm v => rfl
      | _ => rw [ho] at himm; cases himm
    exact ⟨_, false, hexec, huntaken, by rw [hcrossed]; exact congrArg (· + _) hcycles⟩
  · have hp : (resolve i.operand s).state.p = s.p := by
      obtain ⟨d, l, k, hstate⟩ := resolve_state i.operand s
      rw [hstate]
    have hstable := stable_counters s.counters
    have hcounters := hstable.execute i.mnemonic i.operand.mode (hstable.resolve i.operand rfl)
    exact ⟨_, _, exec_eq_execute i s himm, hp ▸ execute_taken_iff ..,
      congrArg (fun c : Nat × Nat × Nat => c.1 + _) hcounters⟩

/-- Settles O11, from `exec_cycles` and the costs of the default table. -/
theorem cycleCost : Obligations.CycleCost := by
  intro i s
  obtain ⟨t, taken, hexec, htaken, hcycles⟩ := exec_cycles i s
  refine ⟨t, hexec, ?_, fun hextra => ?_, fun h => by rw [h]; rfl⟩
  · unfold BranchTaken at htaken
    simp only [readOperand_crossed, ← htaken]
    rw [hcycles, InstructionDef.cost, ← Nat.add_assoc, ← Nat.add_assoc]
    rfl
  · obtain ⟨hlow, hhigh⟩ := i.form_bounds s.config.branchCrossExtra hextra
    obtain ⟨hbase, hmost⟩ :=
      i.form.definition.cost_bounds s.config.branchCrossExtra (resolve i.operand s).crossed taken
    dsimp only [Form.definition] at hcycles hbase hmost
    omega

end Sys2Proof.Machine
end

section
/-!
PROOFS. Loads, stores and register transfers (R110 to R121). What an instruction keeps when it reads its operand and
then changes only A, X, Y and P is said once, for any such instruction; loads and transfers put a byte in a register and set
Z and N from it, so they share one frame. A store is one write after the resolver, and no form of one is of class
`pageCross`.
-/

namespace Sys2Proof.Machine

variable {s u t : State}

/-! ### What a computation in the registers keeps -/

/-- `u` is `s` but for what bus reads move: the device and the recorder (R31, R43). -/
def OnlyReadSide (s u : State) : Prop := ∃ d l k, u = { s with dev := d, log := l, k := k }

/-- `t` is `u` but for A, X, Y and P. -/
def OnlyDataRegisters (u t : State) : Prop := ∃ a x y p, t = { u with a := a, x := x, y := y, p := p }

theorem OnlyReadSide.refl (s : State) : OnlyReadSide s s := ⟨_, _, _, rfl⟩

/-- Bus reads change no register. -/
theorem OnlyReadSide.registers (h : OnlyReadSide s u) :
    u.a = s.a ∧ u.x = s.x ∧ u.y = s.y ∧ u.sp = s.sp ∧ u.p = s.p ∧ u.pc = s.pc := by
  obtain ⟨d, l, k, rfl⟩ := h
  exact ⟨rfl, rfl, rfl, rfl, rfl, rfl⟩

/-- What is kept, and what is paid, when bus reads are followed by a computation in A, X, Y and P. -/
theorem OnlyReadSide.computed_frame (hu : OnlyReadSide s u) (ht : OnlyDataRegisters u t) (n : Nat) :
    let t' := t.addCycles n
    t'.sp = s.sp ∧ t'.pc = s.pc ∧ KeepsStepFields s t' ∧ KeepsMemory s t' ∧ SameBus u t' ∧
      t'.cycles = s.cycles + n := by
  obtain ⟨d, l, k, rfl⟩ := hu
  obtain ⟨a, x, y, p, rfl⟩ := ht
  exact ⟨rfl, rfl, ⟨rfl, rfl, rfl, rfl, rfl, rfl, rfl, rfl⟩, SameMemory.keepsMemory ⟨rfl, rfl, rfl, rfl, rfl⟩,
    ⟨rfl, rfl, rfl, rfl, rfl⟩, rfl⟩

/-- The same where Z and N are set from the byte `v` (R101). -/
theorem OnlyReadSide.loaded_frame {v : Byte} (hu : OnlyReadSide s u) (ht : OnlyDataRegisters u t)
    (hp : t.p = withZN u.p v) (n : Nat) :
    let t' := t.addCycles n
    FlagsZN v t' ∧ KeepsFlagsBut [.z, .n] s t' ∧ t'.sp = s.sp ∧ t'.pc = s.pc ∧ KeepsStepFields s t' ∧
      KeepsMemory s t' ∧ SameBus u t' ∧ t'.cycles = s.cycles + n := by
  obtain ⟨-, -, -, -, hup, -⟩ := hu.registers
  exact ⟨flagsZN_of_withZN hp, keepsFlagsBut_of_withZN (hup ▸ hp), hu.computed_frame ht n⟩

/-! ### Loads -/

theorem onlyReadSide_readOperand (o : Operand) (s : State) : OnlyReadSide s (readOperand o s).2.2 :=
  readOperand_state o s

/-- Settles O37: each load is `execRead`, and its behaviour changes one register, Z and N. -/
theorem loads : Obligations.Loads := by
  intro i s m rest
  have hu := onlyReadSide_readOperand i.operand s
  obtain ⟨ha, hx, hy, -⟩ := hu.registers
  have hrest (f : Byte → State → State) (hexec : exec i s = execRead i f s)
      (hf : ∀ v u, OnlyDataRegisters u (f v u)) (hp : ∀ v u, (f v u).p = withZN u.p v) :
      rest ((f m (readOperand i.operand s).2.2).addCycles (costOf i (readOperand i.operand s).2.1)) :=
    ⟨hexec.trans (execRead_eq ..), hu.loaded_frame (hf ..) (hp ..) _⟩
  refine ⟨fun hm => ⟨_, hrest loadA ?_ (fun _ _ => ⟨_, _, _, _, rfl⟩) (fun _ _ => rfl), rfl, hx, hy⟩,
    fun hm => ⟨_, hrest loadX ?_ (fun _ _ => ⟨_, _, _, _, rfl⟩) (fun _ _ => rfl), ha, rfl, hy⟩,
    fun hm => ⟨_, hrest loadY ?_ (fun _ _ => ⟨_, _, _, _, rfl⟩) (fun _ _ => rfl), ha, hx, rfl⟩⟩
  all_goals rw [exec_eq, execByMnemonic, hm]

/-! ### Stores -/

theorem onlyReadSide_resolve (o : Operand) (s : State) : OnlyReadSide s (resolve o s).state := resolve_state o s

/-- A store has a fixed cost, the indexed modes included (R113 to R115, R99). -/
theorem costOf_store {i : Instr} (h : i.mnemonic = .sta ∨ i.mnemonic = .stx ∨ i.mnemonic = .sty) (crossed : Bool) :
    costOf i crossed = i.form.baseCycles := by
  have hpenalty : i.form.penalty = .none := by
    cases i with
    | staZp | staZpx | staAbs | staAbx | staAby | staIzx | staIzy | stxZp | stxZpy | stxAbs | styZp | styZpx
    | styAbs => rfl
    | _ => rcases h with h | h | h <;> cases h
  simp [costOf, hpenalty]

/-- What one write after bus reads keeps: every register, and all of the state but the bus side. -/
theorem OnlyReadSide.memWrite_frame (hu : OnlyReadSide s u) (addr : Word) (v : Byte) (n : Nat) :
    let t := (memWrite u addr v).addCycles n
    t.a = s.a ∧ t.x = s.x ∧ t.y = s.y ∧ t.sp = s.sp ∧ t.p = s.p ∧ t.pc = s.pc ∧ KeepsStepFields s t ∧
      t.cycles = s.cycles + n := by
  obtain ⟨d, l, k, rfl⟩ := hu
  rw [memWrite_eq]
  exact ⟨rfl, rfl, rfl, rfl, rfl, rfl, ⟨rfl, rfl, rfl, rfl, rfl, rfl, rfl, rfl⟩, rfl⟩

/-- Settles O38: each store is `execStore`, one write of a register the resolver kept, and its cost is fixed. -/
theorem stores : Obligations.Stores := by
  intro i s r effect
  have hu := onlyReadSide_resolve i.operand s
  obtain ⟨ha, hx, hy, -⟩ := hu.registers
  have heffect (src : State → Byte) (hsrc : src r.state = src s) (hexec : exec i s = execStore i src s)
      (hm : i.mnemonic = .sta ∨ i.mnemonic = .stx ∨ i.mnemonic = .sty) : effect (src s) := by
    rw [execStore_eq, hsrc, costOf_store hm] at hexec
    obtain ⟨hta, htx, hty, hsp, hp, hpc, hfields, hcycles⟩ := hu.memWrite_frame r.addr (src s) i.form.baseCycles
    refine ⟨_, hexec, ⟨rfl, rfl, rfl, rfl, rfl⟩, hta, htx, hty, hsp, hp, hpc, hfields, hcycles,
      fun hwf hlt => ?_⟩
    have hram : r.state.ram = s.ram := (sameMemory_resolve i.operand s).ram
    rw [memPeek_addCycles, memPeek_memWrite (hram ▸ hwf) hlt]
  refine ⟨fun hm => heffect State.a ha ?_ (.inl hm), fun hm => heffect State.x hx ?_ (.inr (.inl hm)),
    fun hm => heffect State.y hy ?_ (.inr (.inr hm))⟩
  all_goals rw [exec_eq, execByMnemonic, hm]

/-! ### Transfers -/

/-- What a transfer that sets Z and N does besides its copy: no bus access, 2 cycles (R116 to R120). -/
theorem transfer_frame {i : Instr} {f : State → State} {v : Byte} (hexec : exec i s = execImplied i f s)
    (hcost : costOf i false = 2) (hf : OnlyDataRegisters s (f s)) (hp : (f s).p = withZN s.p v) :
    let t := (f s).addCycles 2
    exec i s = .next t ∧ FlagsZN v t ∧ KeepsFlagsBut [.z, .n] s t ∧ t.pc = s.pc ∧ KeepsStepFields s t ∧
      KeepsMemory s t ∧ SameBus s t ∧ t.cycles = s.cycles + 2 := by
  obtain ⟨hzn, hflags, -, hpc, hkept⟩ := (OnlyReadSide.refl s).loaded_frame hf hp 2
  exact ⟨by rw [hexec, execImplied_eq, hcost], hzn, hflags, hpc, hkept⟩

/-- Settles O40: five transfers by `transfer_frame`, TXS as its own update. -/
theorem transfers : Obligations.Transfers := fun s =>
  ⟨⟨_, ⟨rfl, transfer_frame (f := transferAX) rfl rfl ⟨_, _, _, _, rfl⟩ rfl⟩, rfl, rfl, rfl, rfl⟩,
    ⟨_, ⟨rfl, transfer_frame (f := transferAY) rfl rfl ⟨_, _, _, _, rfl⟩ rfl⟩, rfl, rfl, rfl, rfl⟩,
    ⟨_, ⟨rfl, transfer_frame (f := transferXA) rfl rfl ⟨_, _, _, _, rfl⟩ rfl⟩, rfl, rfl, rfl, rfl⟩,
    ⟨_, ⟨rfl, transfer_frame (f := transferYA) rfl rfl ⟨_, _, _, _, rfl⟩ rfl⟩, rfl, rfl, rfl, rfl⟩,
    ⟨_, ⟨rfl, transfer_frame (f := transferSX) rfl rfl ⟨_, _, _, _, rfl⟩ rfl⟩, rfl, rfl, rfl, rfl⟩,
    rfl, execImplied_eq .txs transferXS s⟩

end Sys2Proof.Machine
end

section
/-!
PROOFS. Arithmetic and logic (R128 to R144). The status byte of each computation is said once, flag by flag. ADC and SBC
are one adder, whose overflow bit is compared once with the signed sum; compares and BIT change `P` alone, which is said once
for both; INC and DEC are one read and one write that leave `P` changed in Z and N.
-/

namespace Sys2Proof.Machine

/-! ### Bytes in numbers -/

/-- Counting down is adding 255 modulo 256 (R140, R143, R144). -/
theorem byte_sub_one (v : Byte) : v - 1 = BitVec.ofNat 8 (v.toNat + 255) := by
  rw [BitVec.sub_def, Nat.add_comm]; rfl

/-- The byte SBC adds, the complement of its operand (R131). -/
theorem xor_ff_toNat (m : Byte) : (m ^^^ 0xFF).toNat = 255 - m.toNat := by
  rw [show (0xFF : Byte) = BitVec.allOnes 8 from rfl, BitVec.xor_allOnes, BitVec.toNat_not]

theorem xor_ff_toInt (m : Byte) : (m ^^^ 0xFF).toInt = -m.toInt - 1 := by
  have hm := m.isLt
  simp only [BitVec.toInt_eq_toNat_cond, xor_ff_toNat]
  split <;> split <;> omega

theorem bit6_eq (v : Byte) : v.getLsbD 6 = decide (v.toNat / 64 % 2 = 1) := Nat.testBit_eq_decide_div_mod_eq

/-! ### Signed overflow -/

/-- The V bit of `AddWithCarry` (R128). -/
def overflowBit (a m r : Byte) : Bool := (~~~ (a ^^^ m)) &&& (a ^^^ r) &&& 0x80 != 0

theorem and_80_ne_zero (v : Byte) : (v &&& 0x80 != 0) = v.msb := by revert v; decide

/-- V says that the inputs have one sign and the result has the other (R128). -/
theorem overflowBit_iff_signs (a m r : Byte) : overflowBit a m r = true ↔ a.msb = m.msb ∧ r.msb ≠ a.msb := by
  rw [overflowBit, and_80_ne_zero, BitVec.msb_and, BitVec.msb_not, BitVec.msb_xor, BitVec.msb_xor]
  cases a.msb <;> cases m.msb <;> cases r.msb <;> decide

/-- That is when the signed sum does not fit 8 bits. -/
theorem signs_iff_signed_overflow {a m r : Byte} {c : Nat} (hc : c ≤ 1) (hr : r.toNat = (a.toNat + m.toNat + c) % 256) :
    (a.msb = m.msb ∧ r.msb ≠ a.msb) ↔ a.toInt + m.toInt + c < -128 ∨ 127 < a.toInt + m.toInt + c := by
  have ha := a.isLt
  have hm := m.isLt
  simp only [BitVec.msb_eq_decide, BitVec.toInt_eq_toNat_cond, decide_eq_decide, ne_eq]
  split <;> split <;> omega

/-! ### The status bytes, flag by flag -/

theorem carryIn_le_one (p : Byte) : carryIn p ≤ 1 := Bool.toNat_le _

theorem addWithCarry_toNat (a m p : Byte) : (addWithCarry a m p).1.toNat = adcSum a m p % 256 := BitVec.toNat_ofNat ..

/-- `AddWithCarry` in the flags (R128). -/
theorem getFlag_addWithCarry (a m p : Byte) (g : Flag) :
    let r := (addWithCarry a m p).1
    getFlag (addWithCarry a m p).2 g =
      if g = .n then decide (128 ≤ r.toNat) else if g = .z then decide (r.toNat = 0)
      else if g = .v then overflowBit a m r else if g = .c then decide (255 < adcSum a m p) else getFlag p g := by
  rw [addWithCarry, getFlag_withZN, getFlag_setFlag, getFlag_setFlag]; rfl

/-- `Compare` in the flags (R129). -/
theorem getFlag_compareFlags (r m p : Byte) (g : Flag) :
    getFlag (compareFlags r m p) g =
      if g = .n then decide (128 ≤ (r - m).toNat) else if g = .z then decide ((r - m).toNat = 0)
      else if g = .c then decide (m.toNat ≤ r.toNat) else getFlag p g := by
  simp only [compareFlags, getFlag_withZN, getFlag_setFlag]

/-- BIT in the flags (R138). -/
theorem getFlag_bitFlags (a m p : Byte) (g : Flag) :
    getFlag (bitFlags a m p) g =
      if g = .n then decide (128 ≤ m.toNat) else if g = .v then decide (m.toNat / 64 % 2 = 1)
      else if g = .z then decide (a &&& m = 0) else getFlag p g := by
  simp only [bitFlags, getFlag_setFlag, bit7_eq, bit6_eq, beq_eq_decide]

/-! ### ADC and SBC -/

variable {s u : State}

/-- An instruction that reads its operand and adds the byte `g` makes of it leaves the sum and the status byte of the adder
(R130, R131), and keeps all else. -/
theorem execRead_added {i : Instr} (g : Byte → Byte) (hexec : exec i s = execRead i (fun m => addM (g m)) s) :
    let r := readOperand i.operand s
    ∃ t, exec i s = .next t ∧ t.a = (addWithCarry s.a (g r.1) s.p).1 ∧ t.p = (addWithCarry s.a (g r.1) s.p).2 ∧
      FlagsZN t.a t ∧ KeepsFlagsBut [.c, .v, .z, .n] s t ∧ t.x = s.x ∧ t.y = s.y ∧ t.sp = s.sp ∧ t.pc = s.pc ∧
      KeepsStepFields s t ∧ KeepsMemory s t ∧ SameBus r.2.2 t ∧ t.cycles = s.cycles + costOf i r.2.1 := by
  intro r
  have hu : OnlyReadSide s r.2.2 := onlyReadSide_readOperand i.operand s
  obtain ⟨ha, hx, hy, -, hp, -⟩ := hu.registers
  have hadd : addWithCarry r.2.2.a (g r.1) r.2.2.p = addWithCarry s.a (g r.1) s.p := by rw [ha, hp]
  have hstatus : (addM (g r.1) r.2.2).p = (addWithCarry s.a (g r.1) s.p).2 := congrArg Prod.snd hadd
  refine ⟨_, hexec.trans (execRead_eq ..), congrArg Prod.fst hadd, hstatus, flagsZN_of_withZN rfl, fun f hf => ?_, hx, hy,
    hu.computed_frame ⟨_, _, _, _, rfl⟩ _⟩
  obtain ⟨hc, hv, hz, hn⟩ : f ≠ .c ∧ f ≠ .v ∧ f ≠ .z ∧ f ≠ .n := by simpa using hf
  refine (congrArg (getFlag · f) hstatus).trans ?_
  rw [getFlag_addWithCarry, if_neg hn, if_neg hz, if_neg hv, if_neg hc]

/-- Settles O41, from the adder in numbers. -/
theorem addWithCarryInNumbers : Obligations.AddWithCarry := by
  intro i s hm m sum
  obtain ⟨t, ht, ha, hp, hframe⟩ := execRead_added (s := s) (i := i) id (by rw [exec_eq, execByMnemonic, hm]; rfl)
  have hsum : adcSum s.a m s.p = sum := by rw [adcSum, carryIn_eq]
  refine ⟨t, ht, ?_, ?_, ?_, ?_, hframe⟩
  · rw [ha, addWithCarry_toNat, ← hsum]; rfl
  · rw [hp, getFlag_addWithCarry, ← hsum]; rfl
  · rw [hp, getFlag_addWithCarry, ← hsum]; rfl
  · rw [hp, ha, getFlag_addWithCarry]; exact overflowBit_iff_signs ..

/-- Settles O42: SBC adds the complement of the operand, whose signed value is `-M - 1`. -/
theorem subtractWithBorrow : Obligations.SubtractWithBorrow := by
  intro i s hm m borrow difference
  obtain ⟨t, ht, ha, hp, hframe⟩ :=
    execRead_added (s := s) (i := i) (· ^^^ 0xFF) (by rw [exec_eq, execByMnemonic, hm]; rfl)
  have hcarry := carryIn_le_one s.p
  have hborrow : borrow = 1 - carryIn s.p := by
    rw [carryIn_eq]
    split <;> simp [borrow, *]
  have hm := m.isLt
  have hsum : adcSum s.a (m ^^^ 0xFF) s.p = s.a.toNat + (255 - m.toNat) + carryIn s.p := by rw [adcSum, xor_ff_toNat]
  have hresult := addWithCarry_toNat s.a (m ^^^ 0xFF) s.p
  refine ⟨t, ht, ?_, ?_, ?_, hframe⟩
  · rw [ha, hresult, hsum, hborrow]
    omega
  · rw [hp, getFlag_addWithCarry, hborrow]
    refine decide_eq_decide.mpr ?_
    rw [hsum]
    omega
  · rw [hp, getFlag_addWithCarry]
    refine Bool.eq_iff_iff.mpr ((overflowBit_iff_signs ..).trans ?_)
    rw [signs_iff_signed_overflow hcarry hresult, decide_eq_true_iff, xor_ff_toInt]
    omega

/-! ### AND, ORA, EOR -/

/-- Settles O43: each is `execRead`, and its behaviour changes A, Z and N as a load does. -/
theorem logicOperations : Obligations.LogicOperations := by
  intro i s m effect
  have hu := onlyReadSide_readOperand i.operand s
  obtain ⟨ha, hx, hy, -⟩ := hu.registers
  have heffect (op : Byte → Byte → Byte)
      (hexec : exec i s = execRead i (fun m u => (u.setA (op u.a m)).setZN (op u.a m)) s) : effect (op s.a m) := by
    obtain ⟨hzn, hflags, hframe⟩ := hu.loaded_frame (v := op s.a m)
      (t := ((readOperand i.operand s).2.2.setA (op s.a m)).setZN (op s.a m)) ⟨_, _, _, _, rfl⟩ rfl
      (costOf i (readOperand i.operand s).2.1)
    rw [execRead_eq, ha] at hexec
    exact ⟨_, hexec, rfl, hzn, hflags, hx, hy, hframe⟩
  refine ⟨fun hm => heffect (· &&& ·) ?_, fun hm => heffect (· ||| ·) ?_, fun hm => heffect (· ^^^ ·) ?_⟩
  all_goals rw [exec_eq, execByMnemonic, hm]; rfl

/-! ### Compares and BIT -/

/-- What an instruction does that reads its operand and changes `P` alone, to a byte of the operand and the registers. -/
theorem execRead_status {i : Instr} {q : Byte → State → Byte}
    (hexec : exec i s = execRead i (fun m u => u.setP (q m u)) s)
    (hq : q (readOperand i.operand s).1 (readOperand i.operand s).2.2 = q (readOperand i.operand s).1 s) :
    let r := readOperand i.operand s
    ∃ t, exec i s = .next t ∧ t.p = q r.1 s ∧ t.a = s.a ∧ t.x = s.x ∧ t.y = s.y ∧ t.sp = s.sp ∧ t.pc = s.pc ∧
      KeepsStepFields s t ∧ KeepsMemory s t ∧ SameBus r.2.2 t ∧ t.cycles = s.cycles + costOf i r.2.1 := by
  intro r
  have hu : OnlyReadSide s r.2.2 := onlyReadSide_readOperand i.operand s
  obtain ⟨ha, hx, hy, -⟩ := hu.registers
  exact ⟨_, hexec.trans (execRead_eq ..), hq, ha, hx, hy,
    hu.computed_frame (t := r.2.2.setP (q r.1 r.2.2)) ⟨_, _, _, _, rfl⟩ _⟩

theorem byte_sub_toNat (r m : Byte) : (r - m).toNat = (r.toNat + 256 - m.toNat) % 256 := by
  have hm := m.isLt
  rw [BitVec.toNat_sub, show 2 ^ 8 - m.toNat + r.toNat = r.toNat + 256 - m.toNat by omega]

theorem byte_sub_eq_zero_iff (r m : Byte) : (r - m).toNat = 0 ↔ r = m := by
  rw [byte_sub_toNat, ← BitVec.toNat_inj]
  omega

/-- Settles O44: each compare changes `P` alone, to `compareFlags` of its register. -/
theorem compares : Obligations.Compares := by
  intro i s m effect
  obtain ⟨ha, hx, hy, -, hup, -⟩ := (onlyReadSide_readOperand i.operand s).registers
  have heffect (reg : State → Byte) (hreg : reg (readOperand i.operand s).2.2 = reg s)
      (hexec : exec i s = execRead i (fun m u => u.setP (compareFlags (reg u) m u.p)) s) : effect (reg s) := by
    obtain ⟨t, ht, hp, hframe⟩ := execRead_status hexec (by rw [hreg, hup])
    refine ⟨t, ht, ?_, ?_, ?_, fun g hg => ?_, hframe⟩
    all_goals rw [hp, getFlag_compareFlags]
    · rfl
    · exact decide_eq_decide.mpr (byte_sub_eq_zero_iff ..)
    · exact congrArg (fun n => decide (128 ≤ n)) (byte_sub_toNat ..)
    · obtain ⟨hc, hz, hn⟩ : g ≠ .c ∧ g ≠ .z ∧ g ≠ .n := by simpa using hg
      rw [if_neg hn, if_neg hz, if_neg hc]
  refine ⟨fun hm => heffect State.a ha ?_, fun hm => heffect State.x hx ?_, fun hm => heffect State.y hy ?_⟩
  all_goals rw [exec_eq, execByMnemonic, hm]; rfl

/-- Settles O45: BIT changes `P` alone, to `bitFlags`. -/
theorem bitTestSetsFlags : Obligations.BitTest := by
  intro i s hm m
  have hexec : exec i s = execRead i (fun m u => u.setP (bitFlags u.a m u.p)) s := by
    rw [exec_eq, execByMnemonic, hm]; rfl
  obtain ⟨ha, -, -, -, hup, -⟩ := (onlyReadSide_readOperand i.operand s).registers
  obtain ⟨t, ht, hp, hframe⟩ := execRead_status hexec (by rw [ha, hup])
  refine ⟨t, ht, ?_, ?_, ?_, fun g hg => ?_, hframe⟩
  all_goals rw [hp, getFlag_bitFlags]
  · rfl
  · rfl
  · rfl
  · obtain ⟨hz, hv, hn⟩ : g ≠ .z ∧ g ≠ .v ∧ g ≠ .n := by simpa using hg
    rw [if_neg hn, if_neg hv, if_neg hz]

/-! ### INC and DEC -/

/-- No form of a mnemonic that modifies memory is immediate or pays for a page cross (R139, R140, R150 to R153). -/
theorem modify_form {i : Instr}
    (h : i.mnemonic = .inc ∨ i.mnemonic = .dec ∨ i.mnemonic = .asl ∨ i.mnemonic = .lsr ∨ i.mnemonic = .rol ∨
      i.mnemonic = .ror) : i.operand.mode ≠ .imm ∧ ∀ crossed, costOf i crossed = i.form.baseCycles := by
  suffices h : i.operand.mode ≠ .imm ∧ i.form.penalty = .none by
    obtain ⟨himm, hpenalty⟩ := h
    exact ⟨himm, fun crossed => by simp [costOf, hpenalty]⟩
  cases i with
  | incZp | incZpx | incAbs | incAbx | decZp | decZpx | decAbs | decAbx | aslAcc | aslZp | aslZpx | aslAbs | aslAbx
  | lsrAcc | lsrZp | lsrZpx | lsrAbs | lsrAbx | rolAcc | rolZp | rolZpx | rolAbs | rolAbx | rorAcc | rorZp | rorZpx
  | rorAbs | rorAbx => exact ⟨nofun, rfl⟩
  | _ => rcases h with h | h | h | h | h | h <;> cases h

/-- What one write after bus reads leaves where `P` was set to `q` between them: `q`, the bus side of the write, and every
other register. -/
theorem OnlyReadSide.modified_frame (hu : OnlyReadSide s u) (q : Byte) (addr : Word) (v : Byte) (n : Nat) :
    let t := (memWrite (u.setP q) addr v).addCycles n
    SameBus (memWrite u addr v) t ∧ t.p = q ∧ t.a = s.a ∧ t.x = s.x ∧ t.y = s.y ∧ t.sp = s.sp ∧ t.pc = s.pc ∧
      KeepsStepFields s t ∧ t.cycles = s.cycles + n ∧
      (s.ram.wf = true → addr.toNat < 0x2000 → memPeek t addr = v) := by
  have hback : s.ram.wf = true → addr.toNat < 0x2000 → memPeek ((memWrite (u.setP q) addr v).addCycles n) addr = v := by
    intro hwf hlt
    have hram : (u.setP q).ram = s.ram := by
      obtain ⟨d, l, k, rfl⟩ := hu
      rfl
    rw [memPeek_addCycles, memPeek_memWrite (hram ▸ hwf) hlt]
  obtain ⟨ha, hx, hy, hsp, -, hpc, hfields, hcycles⟩ := hu.memWrite_frame addr v n
  rw [memWrite_setP] at hback ⊢
  exact ⟨⟨rfl, rfl, rfl, rfl, rfl⟩, rfl, ha, hx, hy, hsp, hpc, hfields, hcycles, hback⟩

/-- An instruction that reads its address, sets `P` to `q` and writes `v` back is that one read and one write, and keeps all
else (R139, R150). -/
theorem execModify_modified {i : Instr} {f : Byte → State → Byte × State} {v q : Byte}
    (hi : i.mnemonic = .inc ∨ i.mnemonic = .dec ∨ i.mnemonic = .asl ∨ i.mnemonic = .lsr ∨ i.mnemonic = .rol ∨
      i.mnemonic = .ror)
    (hexec : exec i s = execModify i f s)
    (hf : f (readOperand i.operand s).1 (readOperand i.operand s).2.2 = (v, (readOperand i.operand s).2.2.setP q)) :
    let addr := (resolve i.operand s).addr
    ∃ t, exec i s = .next t ∧ SameBus (memWrite (readOperand i.operand s).2.2 addr v) t ∧ t.p = q ∧ t.a = s.a ∧
      t.x = s.x ∧ t.y = s.y ∧ t.sp = s.sp ∧ t.pc = s.pc ∧ KeepsStepFields s t ∧
      t.cycles = s.cycles + i.form.baseCycles ∧ (s.ram.wf = true → addr.toNat < 0x2000 → memPeek t addr = v) := by
  obtain ⟨himm, hcost⟩ := modify_form hi
  have hu := onlyReadSide_readOperand i.operand s
  refine ⟨_, ?_, hu.modified_frame q (resolve i.operand s).addr v i.form.baseCycles⟩
  rw [readOperand_eq himm] at hf ⊢
  simp only [hexec, execModify_eq, memRead_fst, hf, hcost]

/-- Settles O46: INC and DEC write the counted byte back and set Z and N from it. -/
theorem memoryIncrementDecrement : Obligations.MemoryIncrementDecrement := by
  intro i s m addr effect
  have heffect (n : Nat) (f : Byte → State → Byte × State) (hi : i.mnemonic = .inc ∨ i.mnemonic = .dec)
      (hexec : exec i s = execModify i f s)
      (hf : ∀ u, f m u = (BitVec.ofNat 8 n, u.setZN (BitVec.ofNat 8 n))) : effect n := by
    obtain ⟨t, ht, hbus, hp, ha, hx, hy, hsp, hpc, hfields, hcycles, hback⟩ :=
      execModify_modified (q := withZN s.p (BitVec.ofNat 8 n)) (hi.imp_right .inl) hexec (by
        rw [← readOperand_p s i.operand]
        exact hf _)
    exact ⟨t, ht, hbus, flagsZN_of_withZN hp, keepsFlagsBut_of_withZN hp, ha, hx, hy, hsp, hpc, hfields, hcycles,
      fun hwf hlt => by rw [hback hwf hlt, BitVec.toNat_ofNat]⟩
  refine ⟨fun hm => heffect _ increment (.inl hm) ?_ fun u => ?_, fun hm => heffect _ decrement (.inr hm) ?_ fun u => ?_⟩
  · rw [exec_eq, execByMnemonic, hm]
  · rfl
  · rw [exec_eq, execByMnemonic, hm]
  · rw [decrement, byte_sub_one]

/-! ### INX, INY, DEX, DEY -/

theorem byte_sub_one_toNat (v : Byte) : (v - 1).toNat = (v.toNat + 255) % 256 := by
  rw [byte_sub_one, BitVec.toNat_ofNat]

/-- Settles O47: each changes one register, Z and N, as a transfer does. -/
theorem registerIncrementDecrement : Obligations.RegisterIncrementDecrement := by
  intro s counted
  have hcounted (i : Instr) (f : State → State) {v : Byte} {n : Nat} (hv : v.toNat = n % 256)
      (hexec : exec i s = execImplied i f s) (hcost : costOf i false = 2) (hf : OnlyDataRegisters s (f s))
      (hp : (f s).p = withZN s.p v) (ha : (f s).a = s.a) (hsp : (f s).sp = s.sp) :
      counted i.opcode i v n ((f s).addCycles 2) := by
    obtain ⟨hnext, hzn, hflags, hframe⟩ := transfer_frame hexec hcost hf hp
    exact ⟨rfl, hnext, hv, hzn, hflags, ha, hsp, hframe⟩
  exact
    ⟨⟨_, hcounted .inx incrementX (BitVec.toNat_add s.x 1) rfl rfl ⟨_, _, _, _, rfl⟩ rfl rfl rfl, rfl⟩,
      ⟨_, hcounted .iny incrementY (BitVec.toNat_add s.y 1) rfl rfl ⟨_, _, _, _, rfl⟩ rfl rfl rfl, rfl⟩,
      ⟨_, hcounted .dex decrementX (byte_sub_one_toNat s.x) rfl rfl ⟨_, _, _, _, rfl⟩ rfl rfl rfl, rfl⟩,
      ⟨_, hcounted .dey decrementY (byte_sub_one_toNat s.y) rfl rfl ⟨_, _, _, _, rfl⟩ rfl rfl rfl, rfl⟩⟩

end Sys2Proof.Machine
end

section
/-!
PROOFS. Shifts and rotates (R150 to R153). Each operation is said once in numbers: the shifted byte, which the old carry
completes where it rotates, and the bit shifted out. The form on A and the form on memory then share the status byte.
-/

namespace Sys2Proof.Machine

/-! ### The four operations in numbers -/

section

variable (v : Byte) (cin : Bool)

theorem bit0_eq : v.getLsbD 0 = decide (v.toNat % 2 = 1) := Nat.testBit_zero v.toNat

theorem shiftLeft_one_eq : v <<< 1 = BitVec.ofNat 8 (2 * v.toNat) := by
  apply BitVec.eq_of_toNat_eq
  rw [BitVec.toNat_shiftLeft, BitVec.toNat_ofNat, Nat.shiftLeft_eq, Nat.mul_comm, Nat.pow_one]

theorem shiftRight_one_eq : v >>> 1 = BitVec.ofNat 8 (v.toNat / 2) := by
  have hv := v.isLt
  apply BitVec.eq_of_toNat_eq
  rw [BitVec.toNat_ushiftRight, BitVec.toNat_ofNat, Nat.shiftRight_eq_div_pow]
  omega

/-- ASL shifts bit 7 out (R150). -/
theorem aslOp_eq : aslOp v cin = (BitVec.ofNat 8 (2 * v.toNat), decide (128 ≤ v.toNat)) := by
  rw [aslOp, shiftLeft_one_eq, bit7_eq]

/-- LSR shifts bit 0 out (R151). -/
theorem lsrOp_eq : lsrOp v cin = (BitVec.ofNat 8 (v.toNat / 2), decide (v.toNat % 2 = 1)) := by
  rw [lsrOp, shiftRight_one_eq, bit0_eq]

/-- ROL shifts bit 7 out and the old carry into bit 0, which the shift has emptied (R152). -/
theorem rolOp_eq : rolOp v cin = (BitVec.ofNat 8 (2 * v.toNat + cin.toNat), decide (128 ≤ v.toNat)) := by
  have hdisjoint : (v <<< 1) &&& (BitVec.ofBool cin).setWidth 8 = 0#8 := by revert v cin; decide
  have hcarry : (BitVec.ofBool cin).setWidth 8 = BitVec.ofNat 8 cin.toNat := by cases cin <;> rfl
  rw [rolOp, ← BitVec.add_eq_or_of_and_eq_zero _ _ hdisjoint, hcarry, shiftLeft_one_eq, bit7_eq, BitVec.ofNat_add]

/-- ROR shifts bit 0 out and the old carry into bit 7, which the shift has emptied (R153). -/
theorem rorOp_eq : rorOp v cin = (BitVec.ofNat 8 (v.toNat / 2 + 128 * cin.toNat), decide (v.toNat % 2 = 1)) := by
  have hdisjoint : (v >>> 1) &&& ((BitVec.ofBool cin).setWidth 8 <<< 7) = 0#8 := by revert v cin; decide
  have hcarry : (BitVec.ofBool cin).setWidth 8 <<< 7 = BitVec.ofNat 8 (128 * cin.toNat) := by cases cin <;> rfl
  rw [rorOp, ← BitVec.add_eq_or_of_and_eq_zero _ _ hdisjoint, hcarry, shiftRight_one_eq, bit0_eq, BitVec.ofNat_add]

end

/-! ### The status byte -/

variable {s t : State} {op : Byte → Bool → Byte × Bool} {v r : Byte} {out : Bool}

/-- Besides giving its result, a shift changes `P` alone (file 43, common shape). -/
theorem shiftWith_eq (hop : op v (getFlag s.p .c) = (r, out)) :
    shiftWith op v s = (r, s.setP (withZN (setFlag s.p .c out) r)) := by
  rw [shiftWith, hop]
  rfl

/-- C is the bit shifted out, Z and N are those of the result, every other flag is kept. -/
theorem flags_of_shifted (h : t.p = withZN (setFlag s.p .c out) r) :
    getFlag t.p .c = out ∧ FlagsZN r t ∧ KeepsFlagsBut [.c, .z, .n] s t := by
  refine ⟨?_, flagsZN_of_withZN h, fun f hf => ?_⟩
  · rw [h, getFlag_withZN, if_neg (by decide), if_neg (by decide), getFlag_setFlag, if_pos rfl]
  · obtain ⟨hc, hz, hn⟩ : f ≠ .c ∧ f ≠ .z ∧ f ≠ .n := by simpa using hf
    rw [h, getFlag_withZN, if_neg hn, if_neg hz, getFlag_setFlag, if_neg hc]

/-! ### The forms on A and on memory -/

/-- An instruction that reads A, sets `P` to `q` and leaves `v` in A keeps all else, and makes no bus access (R86). -/
theorem execAccumulator_modified {i : Instr} {f : Byte → State → Byte × State} {q : Byte}
    (hexec : exec i s = execAccumulator i f s) (hf : f s.a s = (v, s.setP q)) :
    ∃ t, exec i s = .next t ∧ t.a = v ∧ t.p = q ∧ t.x = s.x ∧ t.y = s.y ∧ t.sp = s.sp ∧ t.pc = s.pc ∧
      KeepsStepFields s t ∧ KeepsMemory s t ∧ SameBus s t ∧ t.cycles = s.cycles + costOf i false := by
  rw [execAccumulator_eq, hf] at hexec
  exact ⟨_, hexec, rfl, rfl, rfl, rfl, (OnlyReadSide.refl s).computed_frame ⟨_, _, _, _, rfl⟩ _⟩

/-- Settles O48, from the four operations in numbers and `execAccumulator_modified`. -/
theorem accumulatorShifts : Obligations.AccumulatorShifts := by
  intro s v c effect
  have hv : v < 256 := s.a.isLt
  have hc : (getFlag s.p .c).toNat = c := carryIn_eq s.p
  have hc_le : c ≤ 1 := hc ▸ carryIn_le_one s.p
  have heffect (i : Instr) (op : Byte → Bool → Byte × Bool) {n r : Nat} {out : Bool}
      (hexec : exec i s = execAccumulator i (shiftWith op) s) (hcost : costOf i false = 2)
      (hop : op s.a (getFlag s.p .c) = (BitVec.ofNat 8 n, out)) (hr : n % 256 = r) : effect i r out := by
    obtain ⟨t, ht, ha, hp, hframe⟩ := execAccumulator_modified hexec (shiftWith_eq hop)
    obtain ⟨hcarry, hzn, hflags⟩ := flags_of_shifted hp
    exact ⟨t, ht, by rw [ha, BitVec.toNat_ofNat, hr], hcarry, ha ▸ hzn, hflags, hcost ▸ hframe⟩
  refine ⟨heffect .aslAcc aslOp rfl rfl (aslOp_eq ..) rfl, heffect .lsrAcc lsrOp rfl rfl (lsrOp_eq ..) ?_,
    heffect .rolAcc rolOp rfl rfl (rolOp_eq ..) ?_, heffect .rorAcc rorOp rfl rfl (rorOp_eq ..) ?_⟩
  all_goals omega

/-- Settles O49, from the four operations in numbers and `execModify_modified`. -/
theorem memoryShifts : Obligations.MemoryShifts := by
  intro i s hmode v c addr effect
  have hc : (getFlag s.p .c).toNat = c := carryIn_eq s.p
  have hp := readOperand_p s i.operand
  have heffect (op : Byte → Bool → Byte × Bool) {n : Nat} {out : Bool}
      (hm : i.mnemonic = .asl ∨ i.mnemonic = .lsr ∨ i.mnemonic = .rol ∨ i.mnemonic = .ror)
      (hexec : exec i s = execModify i (shiftWith op) s)
      (hop : op (readOperand i.operand s).1 (getFlag s.p .c) = (BitVec.ofNat 8 n, out)) : effect n out := by
    have hshift := shiftWith_eq (s := (readOperand i.operand s).2.2) (hp.symm ▸ hop)
    obtain ⟨t, ht, hbus, htp, ha, hx, hy, hsp, hpc, hfields, hcycles, hback⟩ :=
      execModify_modified (.inr (.inr hm)) hexec hshift
    obtain ⟨hcarry, hzn, hflags⟩ := flags_of_shifted (hp ▸ htp)
    exact ⟨t, ht, hbus, hcarry, hzn, hflags, ha, hx, hy, hsp, hpc, hfields, hcycles,
      fun hwf hlt => by rw [hback hwf hlt, BitVec.toNat_ofNat]⟩
  refine ⟨fun hm => heffect aslOp (.inl hm) ?_ (aslOp_eq ..),
    fun hm => heffect lsrOp (.inr (.inl hm)) ?_ (lsrOp_eq ..),
    fun hm => heffect rolOp (.inr (.inr (.inl hm))) ?_ (hc ▸ rolOp_eq ..),
    fun hm => heffect rorOp (.inr (.inr (.inr hm))) ?_ (hc ▸ rorOp_eq ..)⟩
  all_goals
    rw [exec_eq, execByMnemonic, hm]
    exact if_neg hmode

end Sys2Proof.Machine
end

section
/-!
PROOFS. Control flow (R160 to R171), and what comes back from the stack (R161, R162, R180 to R183, R192, R193). Two and
three pushes or pulls are said once as one update, by the slots above and below `S`; `OnStack` says which bytes the next
pulls give, so that a return is read off from what its call has pushed.
-/

namespace Sys2Proof.Machine

variable {s t u : State} {vs : List Byte}

/-! ### Words on the stack -/

theorem highByte_eq (w : Word) : highByte w = BitVec.ofNat 8 (w.toNat / 256) := by
  have hw := w.isLt
  apply BitVec.eq_of_toNat_eq
  rw [highByte_toNat, BitVec.toNat_ofNat]
  omega

theorem lowByte_eq (w : Word) : lowByte w = BitVec.ofNat 8 w.toNat := by
  apply BitVec.eq_of_toNat_eq
  rw [lowByte_toNat, BitVec.toNat_ofNat]

theorem slotBelow_zero (sp : Byte) : slotBelow sp 0 = stackAddr sp := by
  rw [slotBelow_eq sp (by decide), BitVec.sub_zero]

/-- What a peek at a stack slot reads (R14, R32). -/
theorem memPeek_slotAbove (s : State) (sp : Byte) (n : Nat) :
    memPeek s (slotAbove sp n) = s.ram.read (256 + (sp + BitVec.ofNat 8 n).toNat) := by
  rw [slotAbove_eq, memPeek_ram _ (stackAddr_lt _), stackAddr_cell]

@[simp] theorem push_sp (s : State) (v : Byte) : (push s v).sp = s.sp - 1 := by rw [push_eq]

/-- Pushing a word (R161) as one update of all but RAM. -/
theorem pushWord_eq (s : State) (w : Word) :
    pushWord s w =
      { s with
        ram := (pushWord s w).ram
        sp := s.sp - 2
        log := s.log ++
          [{ kind := .write, addr := slotBelow s.sp 0, value := BitVec.ofNat 8 (w.toNat / 256), offset := s.k },
           { kind := .write, addr := slotBelow s.sp 1, value := BitVec.ofNat 8 w.toNat, offset := s.k + 1 }]
        k := s.k + 2 } := by
  have hsp : s.sp - 1 - 1 = s.sp - 2 := by bv_omega
  rw [← highByte_eq, ← lowByte_eq, slotBelow_zero, slotBelow_eq s.sp (by decide)]
  simp only [pushWord, push_eq, hsp, List.append_assoc, List.cons_append, List.nil_append]
  rfl

@[simp] theorem pushWord_sp (s : State) (w : Word) : (pushWord s w).sp = s.sp - 2 := by rw [pushWord_eq]

@[simp] theorem pushWord_p (s : State) (w : Word) : (pushWord s w).p = s.p := by rw [pushWord_eq]

/-- Pulling a word (R162) as one update. -/
theorem pullWord_eq (s : State) :
    let lo := memPeek s (slotAbove s.sp 1)
    let hi := memPeek s (slotAbove s.sp 2)
    pullWord s = (joinBytes hi lo,
      { s with
        sp := s.sp + 2
        log := s.log ++
          [{ kind := .read, addr := slotAbove s.sp 1, value := lo, offset := s.k },
           { kind := .read, addr := slotAbove s.sp 2, value := hi, offset := s.k + 1 }]
        k := s.k + 2 }) := by
  have hsp : s.sp + 1 + 1 = s.sp + 2 := by bv_omega
  simp only [memPeek_slotAbove]
  simp only [slotAbove_eq, pullWord, pull_eq, hsp, List.append_assoc, List.cons_append, List.nil_append]
  rfl

@[simp] theorem pullWord_sp (s : State) : (pullWord s).2.sp = s.sp + 2 := by rw [pullWord_eq]

@[simp] theorem pullWord_p (s : State) : (pullWord s).2.p = s.p := by rw [pullWord_eq]

/-! ### What pushes leave in memory -/

/-- One frame after another, where the mapper and the register window stay. -/
theorem KeepsMemoryBut.trans {ws ws' : List Word} (h : KeepsMemoryBut ws s t) (h' : KeepsMemoryBut ws' t u)
    (hmapper : t.mapper = s.mapper) (hwindow : t.regWindow = s.regWindow) : KeepsMemoryBut (ws ++ ws') s u := by
  intro addr hmem hother
  have hmemt : IsMemory t addr := by rwa [IsMemory, hwindow]
  have hothert : ∀ w ∈ ws', ¬ Aliases t w addr := by
    simpa only [Aliases, hmapper] using fun w hw => hother w (List.mem_append_right ws hw)
  rw [h' addr hmemt hothert, h addr hmem fun w hw => hother w (List.mem_append_left ws' hw)]

/-- A push changes its slot alone (R102). -/
theorem push_keepsMemoryBut (hwf : s.ram.wf = true) (v : Byte) : KeepsMemoryBut [slotBelow s.sp 0] s (push s v) := by
  rw [slotBelow_zero]
  exact memWrite_keepsMemoryBut hwf (stackAddr s.sp) v

theorem push_ram_wf (hwf : s.ram.wf = true) (v : Byte) : (push s v).ram.wf = true :=
  memWrite_ram_wf hwf (stackAddr s.sp) v

theorem pushWord_ram_wf (hwf : s.ram.wf = true) (w : Word) : (pushWord s w).ram.wf = true :=
  push_ram_wf (push_ram_wf hwf _) _

theorem pushWord_keepsMemoryBut (hwf : s.ram.wf = true) (w : Word) :
    KeepsMemoryBut [slotBelow s.sp 0, slotBelow s.sp 1] s (pushWord s w) := by
  have hlower : slotBelow (push s (highByte w)).sp 0 = slotBelow s.sp 1 := by
    rw [slotBelow_zero, slotBelow_eq s.sp (by decide), push_sp]
    rfl
  rw [← hlower]
  exact (push_keepsMemoryBut hwf (highByte w)).trans (push_keepsMemoryBut (push_ram_wf hwf _) _)
    (by rw [push_eq]) (by rw [push_eq])

/-! ### The bytes that the next pulls give -/

/-- `vs` are the bytes above the slot `S` names, the next to be pulled first. -/
def OnStack (s : State) (vs : List Byte) : Prop :=
  ∀ (n : Nat) (h : n < vs.length), memPeek s (slotAbove s.sp (n + 1)) = vs[n]

theorem onStack_nil (s : State) : OnStack s [] := nofun

theorem OnStack.congr (h : OnStack s vs) (hram : t.ram = s.ram) (hsp : t.sp = s.sp) : OnStack t vs := by
  intro n hn
  rw [memPeek_slotAbove, hram, hsp, ← memPeek_slotAbove, h n hn]

theorem OnStack.addCycles (h : OnStack s vs) (n : Nat) : OnStack (s.addCycles n) vs := h.congr rfl rfl

/-- A push puts its byte on top; those below it stay while page one does not wrap onto them (R14, R102). -/
theorem OnStack.push (h : OnStack s vs) (hwf : s.ram.wf = true) (hlen : vs.length < 256) (v : Byte) :
    OnStack (Machine.push s v) (v :: vs) := by
  intro n hn
  rw [memPeek_slotAbove, push_eq, Memory.read_write hwf]
  cases n with
  | zero => exact if_pos (by bv_omega)
  | succ n =>
    have hn' : n < vs.length := by simpa using hn
    have hslot : s.sp - 1 + BitVec.ofNat 8 (n + 1 + 1) = s.sp + BitVec.ofNat 8 (n + 1) := by bv_omega
    rw [hslot, if_neg (by bv_omega), ← memPeek_slotAbove, h n hn']
    rfl

/-- A word is pushed high byte first, so that its low byte is on top (R161). -/
theorem OnStack.pushWord (h : OnStack s vs) (hwf : s.ram.wf = true) (hlen : vs.length < 255) (w : Word) :
    OnStack (Machine.pushWord s w) (lowByte w :: highByte w :: vs) :=
  (h.push hwf (by omega) _).push (push_ram_wf hwf _) (Nat.succ_lt_succ hlen) _

/-- A pull gives the top byte and uncovers the next (R103). -/
theorem OnStack.pull {v : Byte} (h : OnStack s (v :: vs)) :
    (Machine.pull s).1 = v ∧ OnStack (Machine.pull s).2 vs := by
  refine ⟨(pull_fst s).trans (h 0 (Nat.succ_pos _)), fun n hn => ?_⟩
  have hslot : s.sp + 1 + BitVec.ofNat 8 (n + 1) = s.sp + BitVec.ofNat 8 (n + 1 + 1) := by bv_omega
  have hnext := h (n + 1) (Nat.succ_lt_succ hn)
  rw [memPeek_slotAbove] at hnext ⊢
  rw [pull_eq, hslot]
  exact hnext

/-- A word is pulled low byte first (R162). -/
theorem OnStack.pullWord {lo hi : Byte} (h : OnStack s (lo :: hi :: vs)) :
    (Machine.pullWord s).1 = joinBytes hi lo := by
  obtain ⟨hlo, hrest⟩ := h.pull
  exact congrArg₂ joinBytes hrest.pull.1 hlo

/-- The slots above the lowered `S` are those at and below the old one (R14). -/
theorem slotAbove_sub (sp : Byte) {m n : Nat} (hn : n ≤ m) (hm : m < 256) :
    slotAbove (sp - BitVec.ofNat 8 m) n = slotBelow sp (m - n) := by
  rw [slotAbove, slotBelow, BitVec.toNat_sub, BitVec.toNat_ofNat]
  congr 2
  omega

/-- Where the bytes of a pushed word lie, by the old `S` (R161). -/
theorem memPeek_pushWord (hwf : s.ram.wf = true) (w : Word) :
    memPeek (pushWord s w) (slotBelow s.sp 1) = lowByte w ∧
      memPeek (pushWord s w) (slotBelow s.sp 0) = highByte w := by
  have hstack : OnStack (pushWord s w) [lowByte w, highByte w] := (onStack_nil s).pushWord hwf (Nat.zero_lt_succ _) w
  have hslot (n : Nat) (hn : n ≤ 2) : slotAbove (pushWord s w).sp n = slotBelow s.sp (2 - n) := by
    rw [pushWord_sp, ← slotAbove_sub s.sp hn (by decide)]
    rfl
  rw [← hslot 1 (by decide), ← hslot 2 (by decide)]
  exact ⟨hstack 0 (Nat.zero_lt_succ _), hstack 1 (Nat.one_lt_succ_succ _)⟩

/-! ### Jumps -/

/-- JMP has a fixed cost in both forms (R160). -/
theorem costOf_jump {i : Instr} (h : i.mnemonic = .jmp) (crossed : Bool) : costOf i crossed = i.form.baseCycles := by
  have hpenalty : i.form.penalty = .none := by
    cases i with
    | jmpAbs | jmpInd => rfl
    | _ => cases h
  simp [costOf, hpenalty]

/-- Settles O50: JMP sets `PC` in the state the resolver leaves. -/
theorem jumps : Obligations.Jumps := by
  intro i s hm
  have hexec : exec i s = execAddress i jumpTo s := by rw [exec_eq, execByMnemonic, hm]
  obtain ⟨ha, hx, hy, hsp, hp, -⟩ := (onlyReadSide_resolve i.operand s).registers
  obtain ⟨d, l, k, hstate⟩ := resolve_state i.operand s
  rw [execAddress_eq, costOf_jump hm] at hexec
  have hmemory := (sameMemory_resolve i.operand s).keepsMemory
  refine ⟨_, hexec, rfl, hp, ha, hx, hy, hsp, ?_, hmemory, ⟨rfl, rfl, rfl, rfl, rfl⟩, ?_⟩
  · rw [hstate]
    exact ⟨rfl, rfl, rfl, rfl, rfl, rfl, rfl, rfl⟩
  · rw [hstate]
    rfl

/-! ### Calls and returns -/

/-- JSR pushes the address of its own last byte and jumps, in 6 cycles (R161). -/
theorem exec_jsr (a : Word) (s : State) :
    exec (.jsr a) s = .next ((callTo a s).addCycles 6) := execAddress_eq (.jsr a) callTo s

/-- RTS continues one past the address it pulls, in 6 cycles (R162). -/
theorem exec_rts (s : State) :
    exec .rts s = .next ((returnFromCall s).addCycles 6) := execImplied_eq .rts returnFromCall s

/-- Settles O51: the word JSR pushes, its frame and its place on the stack. -/
theorem jumpToSubroutine : Obligations.JumpToSubroutine := by
  intro a s hwf ret
  have hret : (s.pc - 1).toNat = ret := by rw [BitVec.toNat_sub, Nat.add_comm]; rfl
  have hsp : (s.sp - 2).toNat = (s.sp.toNat + 254) % 256 := by rw [BitVec.toNat_sub, Nat.add_comm]; rfl
  have hkept := pushWord_keepsMemoryBut hwf (s.pc - 1)
  obtain ⟨hlow, hhigh⟩ := memPeek_pushWord hwf (s.pc - 1)
  rw [← BitVec.toNat_inj, lowByte_toNat, hret] at hlow
  rw [← BitVec.toNat_inj, highByte_toNat, hret] at hhigh
  have hexec := exec_jsr a s
  rw [callTo] at hexec
  rw [pushWord_eq, hret] at hexec hlow hhigh hkept
  exact ⟨rfl, _, hexec, rfl, hsp, hhigh, hlow, hkept, rfl, rfl, rfl, rfl, rfl, rfl, rfl, rfl,
    ⟨rfl, rfl, rfl, rfl, rfl, rfl, rfl, rfl⟩, rfl⟩

/-- Settles O52, from `pullWord` as one update. -/
theorem returnFromSubroutine : Obligations.ReturnFromSubroutine := by
  intro s lo hi
  have hpc : (joinBytes hi lo + 1).toNat = (lo.toNat + 256 * hi.toNat + 1) % 65536 := by
    rw [BitVec.toNat_add, joinBytes_toNat, Nat.add_comm lo.toNat]
    rfl
  refine ⟨rfl, _, exec_rts s, ?_⟩
  rw [returnFromCall, pullWord_eq]
  exact ⟨hpc, BitVec.toNat_add .., rfl, rfl, rfl, rfl, rfl, SameMemory.keepsMemory ⟨rfl, rfl, rfl, rfl, rfl⟩, rfl, rfl,
    rfl, rfl, ⟨rfl, rfl, rfl, rfl, rfl, rfl, rfl, rfl⟩, rfl⟩

theorem callTo_sp (a : Word) (s : State) : (callTo a s).sp = s.sp - 2 := by rw [callTo, setPc_sp, pushWord_sp]

theorem callTo_p (a : Word) (s : State) : (callTo a s).p = s.p := by rw [callTo, setPc_p, pushWord_p]

/-- JSR leaves the address of its last byte on the stack (R161). -/
theorem OnStack.callTo (h : OnStack s vs) (hwf : s.ram.wf = true) (hlen : vs.length < 255) (a : Word) :
    OnStack (Machine.callTo a s) (lowByte (s.pc - 1) :: highByte (s.pc - 1) :: vs) :=
  (h.pushWord hwf hlen _).congr rfl rfl

theorem returnFromCall_sp (s : State) : (returnFromCall s).sp = s.sp + 2 := pullWord_sp s

theorem returnFromCall_p (s : State) : (returnFromCall s).p = s.p := pullWord_p s

/-- RTS continues one past the address on the stack (R162). -/
theorem OnStack.returnFromCall {lo hi : Byte} (h : OnStack s (lo :: hi :: vs)) :
    (Machine.returnFromCall s).pc = joinBytes hi lo + 1 := congrArg (· + 1) h.pullWord

/-- A return undoes a call: it resumes after it, with `S` and `P` as before (R161, R162). -/
theorem returnFromCall_callTo (hwf : s.ram.wf = true) (a : Word) (n : Nat) :
    let u := returnFromCall ((callTo a s).addCycles n)
    u.pc = s.pc ∧ u.sp = s.sp ∧ u.p = s.p := by
  have hstack := ((onStack_nil s).callTo hwf (by decide) a).addCycles n
  refine ⟨?_, ?_, ?_⟩
  · rw [hstack.returnFromCall, joinBytes_high_low, BitVec.sub_add_cancel]
  · rw [returnFromCall_sp, addCycles_sp, callTo_sp, BitVec.sub_add_cancel]
  · rw [returnFromCall_p, addCycles_p, callTo_p]

/-! ### Branches -/

/-- An instruction with a relative operand costs 2 cycles and is of class `branch` (R163). -/
theorem branch_form {i : Instr} {d : Byte} (h : i.operand = .rel d) :
    i.form.baseCycles = 2 ∧ i.form.penalty = .branch := by
  cases i with
  | bcc | bcs | beq | bne | bmi | bpl | bvc | bvs => exact ⟨rfl, rfl⟩
  | _ => cases h

/-- A branch goes to its target and pays for it where its condition holds, and passes where not (R163). -/
theorem execBranch_eq {i : Instr} {d : Byte} (hi : i.operand = .rel d) (cond : Bool) (s : State) :
    let r := resolve (.rel d) s
    execBranch i cond s = .next
      (if cond = true then
        { s with pc := r.addr, cycles := s.cycles + 3 + (if r.crossed = true then s.config.branchCrossExtra else 0) }
      else { s with cycles := s.cycles + 2 }) := by
  obtain ⟨hbase, hpenalty⟩ := branch_form hi
  have hcycles (crossed : Bool) :
      s.cycles + i.form.definition.cost s.config.branchCrossExtra crossed cond =
        if cond = true then s.cycles + 3 + (if crossed = true then s.config.branchCrossExtra else 0)
        else s.cycles + 2 := by
    cases cond <;> simp [cost_taken_eq, cost_untaken_eq, Form.definition, hbase, hpenalty, ← Nat.add_assoc]
  rw [execBranch, hi]
  cases cond with
  | false => exact congrArg (fun n => Host.Outcome.next { s with cycles := n }) (hcycles _)
  | true => exact congrArg (fun n => Host.Outcome.next { s with pc := branchTarget s.pc d, cycles := n }) (hcycles _)

/-- Settles O53: the two branches on a flag have opposite conditions. -/
theorem branches : Obligations.Branches := by
  intro d s r extra taken passed
  have hpair (i j : Instr) (flag value : Bool) (hi : i.operand = .rel d) (hj : j.operand = .rel d)
      (hexeci : exec i s = execBranch i (flag == value) s) (hexecj : exec j s = execBranch j (flag == !value) s) :
      if flag = value then taken i ∧ passed j else passed i ∧ taken j := by
    rw [execBranch_eq hi] at hexeci
    rw [execBranch_eq hj] at hexecj
    cases flag <;> cases value <;> exact ⟨hexeci, hexecj⟩
  exact ⟨fun h => h ▸ rfl, hpair (.bcc d) (.bcs d) (getFlag s.p .c) false rfl rfl rfl rfl,
    hpair (.beq d) (.bne d) (getFlag s.p .z) true rfl rfl rfl rfl,
    hpair (.bmi d) (.bpl d) (getFlag s.p .n) true rfl rfl rfl rfl,
    hpair (.bvc d) (.bvs d) (getFlag s.p .v) false rfl rfl rfl rfl⟩

/-! ### The software interrupt and the return from it -/

/-- Setting the break flag for the push and clearing it at the pull leaves it clear; the unused bit is set (R18). -/
theorem restoredStatus_pushedStatus (p : Byte) :
    restoredStatus (pushedStatus p) = setFlag (setFlag p .b false) .u true := by
  apply status_ext
  intro f
  simp only [getFlag_restoredStatus, pushedStatus_eq, getFlag_setFlag]
  split
  · rfl
  · split <;> rfl

@[simp] theorem readWord_ram (s : State) (lo hi : Word) : (readWord s lo hi).2.ram = s.ram := rfl

@[simp] theorem readWord_sp (s : State) (lo hi : Word) : (readWord s lo hi).2.sp = s.sp := rfl

/-- The reads of the vector leave RAM to the pushes (R201). -/
theorem softwareInterrupt_ram (s : State) (ret : Word) :
    (softwareInterrupt s ret).ram = (push (pushWord s ret) (pushedStatus s.p)).ram := by
  simp only [softwareInterrupt, setPc_ram, readWord_ram, setP_ram]

theorem softwareInterrupt_sp (s : State) (ret : Word) : (softwareInterrupt s ret).sp = s.sp - 3 := by
  have hsp : s.sp - 2 - 1 = s.sp - 3 := by bv_omega
  simp only [softwareInterrupt, setPc_sp, readWord_sp, setP_sp, push_sp, pushWord_sp, hsp]

/-- The software interrupt leaves the status byte on top of the return address (R201). -/
theorem OnStack.softwareInterrupt (h : OnStack s vs) (hwf : s.ram.wf = true) (hlen : vs.length < 254) (ret : Word) :
    OnStack (Machine.softwareInterrupt s ret) (pushedStatus s.p :: lowByte ret :: highByte ret :: vs) := by
  have hword := h.pushWord hwf (by omega) ret
  have hpushed := hword.push (pushWord_ram_wf hwf ret) (Nat.add_lt_add_right hlen 2) (pushedStatus s.p)
  refine hpushed.congr (softwareInterrupt_ram s ret) ?_
  rw [softwareInterrupt_sp, push_sp, pushWord_sp]
  bv_omega

/-- What the return from it restores (R206). -/
theorem OnStack.returnFromInterrupt {v lo hi : Byte} (h : OnStack s (v :: lo :: hi :: vs)) :
    (Machine.returnFromInterrupt s).p = restoredStatus v ∧ (Machine.returnFromInterrupt s).pc = joinBytes hi lo := by
  obtain ⟨hv, hrest⟩ := h.pull
  exact ⟨congrArg restoredStatus hv,
    (hrest.congr (t := (Machine.pull s).2.setP (restoredStatus (Machine.pull s).1)) rfl rfl).pullWord⟩

theorem returnFromInterrupt_sp (s : State) : (returnFromInterrupt s).sp = s.sp + 3 := by
  have h : (returnFromInterrupt s).sp = s.sp + 1 + 1 + 1 := rfl
  rw [h]
  bv_omega

/-- The return from it undoes a BRK but for the byte it skips and the two bits of `P` (R192, R193). -/
theorem returnFromInterrupt_breakNow (hwf : s.ram.wf = true) (n : Nat) :
    let u := returnFromInterrupt ((breakNow s).addCycles n)
    u.pc = s.pc + 1 ∧ u.sp = s.sp ∧ u.p = setFlag (setFlag s.p .b false) .u true := by
  have hstack := ((onStack_nil s).softwareInterrupt hwf (by decide) (s.pc + 1)).addCycles n
  obtain ⟨hp, hpc⟩ := hstack.returnFromInterrupt
  refine ⟨?_, ?_, ?_⟩
  · rw [breakNow, hpc, joinBytes_high_low]
  · rw [returnFromInterrupt_sp, addCycles_sp, breakNow, softwareInterrupt_sp, BitVec.sub_add_cancel]
  · rw [breakNow, hp, restoredStatus_pushedStatus]

/-! ### Round trips -/

/-- A pull undoes a push (R102, R103). -/
theorem pull_addCycles_push (hwf : s.ram.wf = true) (v : Byte) (n : Nat) :
    let r := pull ((push s v).addCycles n)
    r.2.pc = s.pc ∧ r.2.sp = s.sp ∧ r.1 = v := by
  have hstack := ((onStack_nil s).push hwf (by decide) v).addCycles n
  refine ⟨?_, ?_, hstack.pull.1⟩
  · rw [pull_eq, push_eq]
    rfl
  · rw [pull_eq, addCycles_sp, push_sp, BitVec.sub_add_cancel]

/-- Settles O60: each of the four pulls undoes its push. -/
theorem stackRoundTrips : Obligations.StackRoundTrips := by
  intro a s t u hwf
  refine ⟨fun h h' => ?_, fun h h' => ?_, fun h h' => ?_, fun h h' => ?_⟩
  · cases (exec_jsr a s).symm.trans h
    cases (exec_rts _).symm.trans h'
    exact returnFromCall_callTo hwf a 6
  · cases (execImplied_eq .brk breakNow s).symm.trans h
    cases (execImplied_eq .rti returnFromInterrupt _).symm.trans h'
    exact returnFromInterrupt_breakNow hwf 7
  · cases (execImplied_eq .php pushP s).symm.trans h
    cases (execImplied_eq .plp pullP _).symm.trans h'
    obtain ⟨hpc, hsp, hv⟩ := pull_addCycles_push hwf (pushedStatus s.p) 3
    exact ⟨hpc, hsp, (congrArg restoredStatus hv).trans (restoredStatus_pushedStatus s.p)⟩
  · cases (execImplied_eq .pha pushA s).symm.trans h
    cases (execImplied_eq .pla pullA _).symm.trans h'
    exact pull_addCycles_push hwf s.a 3

end Sys2Proof.Machine
end

section
/-!
PROOFS. Stack, flags and system (R180 to R194). One pull, the three pushes of the software interrupt and the three pulls
of its return are each said once as one update, by the slots above and below `S`; a flag instruction is one flag written;
and a definition that runs nothing costs its base cycles, so that a step of NOP or of an unknown opcode is its opcode fetch.
-/

namespace Sys2Proof.Machine

variable {s u : State}

/-! ### Flags -/

/-- Settles O56: each flag instruction writes one flag, and leaves the others (R7). -/
theorem flagInstructions : Obligations.FlagInstructions := by
  intro s sets
  have hsets (i : Instr) (f : Flag) (b : Bool) (hexec : exec i s = execImplied i (fun t => t.putFlag f b) s)
      (hcost : costOf i false = 2) : sets i.opcode i f b := by
    rw [execImplied_eq, hcost] at hexec
    exact ⟨rfl, setFlag s.p f b, hexec, by rw [getFlag_setFlag, if_pos rfl], (agreeBut_setFlag s.p f b).flag⟩
  exact ⟨hsets .clc .c false rfl rfl, hsets .sec .c true rfl rfl, hsets .cli .i false rfl rfl,
    hsets .sei .i true rfl rfl, hsets .cld .d false rfl rfl, hsets .sed .d true rfl rfl, hsets .clv .v false rfl rfl⟩

/-! ### Pushes -/

/-- `memPeek_push`, with the slot named as the first of those from `S` down (R102). -/
theorem memPeek_push_slotBelow (hwf : s.ram.wf = true) (v : Byte) : memPeek (push s v) (slotBelow s.sp 0) = v := by
  have hslot : slotBelow s.sp 0 = slotAbove s.sp 0 := by rw [slotBelow_zero, slotAbove_eq, BitVec.add_zero]
  rw [hslot, memPeek_push hwf]

/-- Settles O54: each is one push of a byte, in 3 cycles. -/
theorem pushes : Obligations.Pushes := by
  intro s hwf effect
  have heffect (i : Instr) (v : Byte) (hexec : exec i s = execImplied i (push · v) s) (hcost : costOf i false = 3) :
      effect i.opcode i v := by
    have hback := memPeek_push_slotBelow hwf v
    have hkept := push_keepsMemoryBut hwf v
    have hsp : (s.sp - 1).toNat = (s.sp.toNat + 255) % 256 := byte_sub_one_toNat s.sp
    rw [execImplied_eq, hcost] at hexec
    rw [push_eq, ← slotBelow_zero] at hexec hback hkept
    exact ⟨rfl, _, hexec, hsp, hback, hkept, rfl, rfl, rfl, rfl, rfl, rfl, rfl, rfl, rfl,
      ⟨rfl, rfl, rfl, rfl, rfl, rfl, rfl, rfl⟩, rfl⟩
  exact ⟨heffect .pha s.a rfl rfl, heffect .php (pushedStatus s.p) rfl rfl⟩

/-! ### Pulls -/

/-- A pull (R103) as one update, by the slots above. -/
theorem pull_eq_slotAbove (s : State) :
    let v := memPeek s (slotAbove s.sp 1)
    pull s = (v,
      { s with
        sp := s.sp + 1
        log := s.log ++ [{ kind := .read, addr := slotAbove s.sp 1, value := v, offset := s.k }]
        k := s.k + 1 }) := by
  rw [memPeek_slotAbove, slotAbove_eq]
  exact pull_eq s

/-- A slot above a raised `S` is one above the old one (R14). -/
theorem slotAbove_add (sp : Byte) (m n : Nat) : slotAbove (sp + BitVec.ofNat 8 m) n = slotAbove sp (m + n) := by
  rw [slotAbove_eq, slotAbove_eq, BitVec.add_assoc, BitVec.ofNat_add]

/-- The flags of a status byte that PLP or RTI restores (R18, R183, R193). -/
theorem flags_of_restored {p v : Byte} (h : p = restoredStatus v) :
    getFlag p .b = false ∧ getFlag p .u = true ∧ ∀ f, f ≠ .b → f ≠ .u → getFlag p f = getFlag v f := by
  subst h
  refine ⟨?_, ?_, fun f hb hu => ?_⟩
  all_goals rw [getFlag_restoredStatus]
  · rfl
  · rfl
  · rw [if_neg hu, if_neg hb]

/-- Settles O55: each is one pull, in 4 cycles, and sets A or `P` from the byte. -/
theorem pulls : Obligations.Pulls := by
  intro s v pulled
  have hpull := pull_eq_slotAbove s
  have hpulled (i : Instr) (f : State → State) {a p : Byte} (hexec : exec i s = execImplied i f s)
      (hcost : costOf i false = 4) (hf : f s = { (pull s).2 with a := a, p := p }) :
      pulled i.opcode i ((f s).addCycles 4) := by
    rw [execImplied_eq, hcost] at hexec
    refine ⟨rfl, hexec, ?_⟩
    rw [hf, hpull]
    exact ⟨BitVec.toNat_add .., rfl, rfl, rfl, rfl, rfl, SameMemory.keepsMemory ⟨rfl, rfl, rfl, rfl, rfl⟩, rfl, rfl,
      rfl, ⟨rfl, rfl, rfl, rfl, rfl, rfl, rfl, rfl⟩, rfl⟩
  have hv : (pull s).1 = v := congrArg Prod.fst hpull
  have hpla : (pullA s).p = withZN s.p v := congrArg (withZN s.p) hv
  exact ⟨⟨_, hpulled .pla pullA rfl rfl rfl, hv, flagsZN_of_withZN hpla, keepsFlagsBut_of_withZN hpla⟩,
    ⟨_, hpulled .plp pullP rfl rfl rfl, rfl, flags_of_restored (congrArg restoredStatus hv)⟩⟩

/-! ### The software interrupt -/

/-- What the software interrupt pushes: the return address, then `P` with the break flag set (R201). -/
def pushInterrupt (s : State) (ret : Word) : State := push (pushWord s ret) (pushedStatus s.p)

/-- The three pushes as one update of all but RAM. -/
theorem pushInterrupt_eq (s : State) (ret : Word) :
    pushInterrupt s ret =
      { s with
        ram := (pushInterrupt s ret).ram
        sp := s.sp - 3
        log := s.log ++
          [{ kind := .write, addr := slotBelow s.sp 0, value := BitVec.ofNat 8 (ret.toNat / 256), offset := s.k },
           { kind := .write, addr := slotBelow s.sp 1, value := BitVec.ofNat 8 ret.toNat, offset := s.k + 1 },
           { kind := .write, addr := slotBelow s.sp 2, value := pushedStatus s.p, offset := s.k + 2 }]
        k := s.k + 3 } := by
  have hsp : s.sp - 2 - 1 = s.sp - 3 := by bv_omega
  rw [slotBelow_eq s.sp (n := 2) (by decide), pushInterrupt, push_eq, pushWord_eq, hsp]
  simp only [List.append_assoc, List.cons_append, List.nil_append]
  rfl

/-- After the pushes I is set, and `PC` read from the vector (R201). -/
theorem softwareInterrupt_eq (s : State) (ret : Word) :
    let r := readWord (pushInterrupt s ret) s.config.brkVector (s.config.brkVector + 1)
    softwareInterrupt s ret = (r.2.setP (setFlag s.p .i true)).setPc r.1 := by
  have hp : (pushInterrupt s ret).p ||| 0x04 = setFlag s.p .i true := by rw [pushInterrupt_eq]; rfl
  rw [← hp]
  simp only [softwareInterrupt, pushInterrupt, readWord, memRead_setP]

theorem onlyReadSide_readWord (s : State) (lo hi : Word) : OnlyReadSide s (readWord s lo hi).2 := ⟨_, _, _, rfl⟩

/-- What is kept, and what is paid, when bus reads are followed by new values of `P` and `PC`. -/
theorem OnlyReadSide.jumped_frame (h : OnlyReadSide s u) (q : Byte) (target : Word) (n : Nat) :
    let t := ((u.setP q).setPc target).addCycles n
    SameBus u t ∧ t.sp = s.sp ∧ t.a = s.a ∧ t.x = s.x ∧ t.y = s.y ∧ KeepsMemory s t ∧ KeepsStepFields s t ∧
      t.cycles = s.cycles + n := by
  obtain ⟨d, l, k, rfl⟩ := h
  exact ⟨⟨rfl, rfl, rfl, rfl, rfl⟩, rfl, rfl, rfl, rfl, SameMemory.keepsMemory ⟨rfl, rfl, rfl, rfl, rfl⟩,
    ⟨rfl, rfl, rfl, rfl, rfl, rfl, rfl, rfl⟩, rfl⟩

/-- Where the three bytes lie, by the old `S`. -/
theorem memPeek_pushInterrupt (hwf : s.ram.wf = true) (ret : Word) :
    memPeek (pushInterrupt s ret) (slotBelow s.sp 0) = highByte ret ∧
      memPeek (pushInterrupt s ret) (slotBelow s.sp 1) = lowByte ret ∧
      memPeek (pushInterrupt s ret) (slotBelow s.sp 2) = pushedStatus s.p := by
  have hsp : (pushInterrupt s ret).sp = s.sp - 3 := by rw [pushInterrupt_eq]
  have hstack : OnStack (pushInterrupt s ret) [pushedStatus s.p, lowByte ret, highByte ret] :=
    ((onStack_nil s).softwareInterrupt hwf (by decide) ret).congr (softwareInterrupt_ram s ret).symm
      (hsp.trans (softwareInterrupt_sp s ret).symm)
  have hslot (n : Nat) (hn : n ≤ 3) : slotAbove (pushInterrupt s ret).sp n = slotBelow s.sp (3 - n) := by
    rw [hsp]
    exact slotAbove_sub s.sp hn (by decide)
  rw [← hslot 3 (by decide), ← hslot 2 (by decide), ← hslot 1 (by decide)]
  exact ⟨hstack 2 (Nat.lt_succ_self 2), hstack 1 (Nat.one_lt_succ_succ 1), hstack 0 (Nat.zero_lt_succ 2)⟩

/-- The pushes change their three slots alone. -/
theorem pushInterrupt_keepsMemoryBut (hwf : s.ram.wf = true) (ret : Word) :
    KeepsMemoryBut [slotBelow s.sp 0, slotBelow s.sp 1, slotBelow s.sp 2] s (pushInterrupt s ret) := by
  have hlowest : slotBelow (pushWord s ret).sp 0 = slotBelow s.sp 2 := by
    rw [slotBelow_zero, slotBelow_eq s.sp (by decide), pushWord_sp]
    rfl
  rw [← hlowest]
  exact (pushWord_keepsMemoryBut hwf ret).trans (push_keepsMemoryBut (pushWord_ram_wf hwf ret) _)
    (by rw [pushWord_eq]) (by rw [pushWord_eq])

/-- BRK takes the software interrupt with the address two past its opcode, in 7 cycles (R192). -/
theorem exec_brk (s : State) : exec .brk s = .next ((softwareInterrupt s (s.pc + 1)).addCycles 7) :=
  execImplied_eq .brk breakNow s

/-- Settles O58: the state `u` is the one after the pushes. -/
theorem breakTakesSoftwareInterrupt : Obligations.BreakTakesSoftwareInterrupt := by
  intro s hwf vector ret status
  have hret : (s.pc + 1).toNat = ret := BitVec.toNat_add ..
  have hsp : (s.sp - 3).toNat = (s.sp.toNat + 253) % 256 := by rw [BitVec.toNat_sub, Nat.add_comm]; rfl
  obtain ⟨hhigh, hlow, hstatus⟩ := memPeek_pushInterrupt hwf (s.pc + 1)
  have hkept := pushInterrupt_keepsMemoryBut hwf (s.pc + 1)
  obtain ⟨hbus, htsp, ha, hx, hy, hmemory, hfields, hcycles⟩ :=
    (onlyReadSide_readWord (pushInterrupt s (s.pc + 1)) vector (vector + 1)).jumped_frame (setFlag s.p .i true)
      (readWord (pushInterrupt s (s.pc + 1)) vector (vector + 1)).1 7
  have hexec := exec_brk s
  rw [softwareInterrupt_eq] at hexec
  rw [← BitVec.toNat_inj, highByte_toNat, hret] at hhigh
  rw [← BitVec.toNat_inj, lowByte_toNat, hret] at hlow
  rw [pushInterrupt_eq, hret] at hexec hhigh hlow hstatus hkept hbus htsp ha hx hy hmemory hfields hcycles
  refine ⟨fun h => by simp only [vector, h]; decide, rfl, _, _, hexec, hhigh, hlow, hstatus, hkept, rfl, rfl, rfl, rfl,
    ⟨rfl, rfl, rfl, rfl, rfl, rfl, rfl, rfl⟩, ⟨?_, hbus⟩, (congrArg BitVec.toNat htsp).trans hsp, ?_, fun f hf => ?_, ha,
    hx, hy, hmemory, hfields, hcycles⟩
  · exact (joinBytes_toNat ..).trans (Nat.add_comm ..)
  · exact (getFlag_setFlag s.p .i .i true).trans (if_pos rfl)
  · exact (agreeBut_setFlag s.p .i true).flag f (by simpa using hf)

/-! ### The return from it -/

/-- The return (R206) as one update: three pulls, the first of them the status byte. -/
theorem returnFromInterrupt_eq (s : State) :
    let v := memPeek s (slotAbove s.sp 1)
    let lo := memPeek s (slotAbove s.sp 2)
    let hi := memPeek s (slotAbove s.sp 3)
    returnFromInterrupt s =
      { s with
        sp := s.sp + 3
        p := restoredStatus v
        pc := joinBytes hi lo
        log := s.log ++
          [{ kind := .read, addr := slotAbove s.sp 1, value := v, offset := s.k },
           { kind := .read, addr := slotAbove s.sp 2, value := lo, offset := s.k + 1 },
           { kind := .read, addr := slotAbove s.sp 3, value := hi, offset := s.k + 2 }]
        k := s.k + 3 } := by
  have hsp : s.sp + 1 + 2 = s.sp + 3 := by bv_omega
  have hlow : slotAbove (s.sp + 1) 1 = slotAbove s.sp 2 := slotAbove_add s.sp 1 1
  have hhigh : slotAbove (s.sp + 1) 2 = slotAbove s.sp 3 := slotAbove_add s.sp 1 2
  rw [returnFromInterrupt, pull_eq_slotAbove]
  dsimp only
  rw [pullWord_eq]
  simp only [setP_sp, setP_log, hsp, hlow, hhigh, memPeek_slotAbove, List.append_assoc, List.cons_append,
    List.nil_append]
  rfl

/-- Settles O59, from the three pulls as one update. -/
theorem returnFromInterruptInNumbers : Obligations.ReturnFromInterrupt := by
  intro s v lo hi
  obtain ⟨hb, hu, hflags⟩ := flags_of_restored (v := v) rfl
  refine ⟨rfl, _, execImplied_eq .rti returnFromInterrupt s, ?_⟩
  rw [returnFromInterrupt_eq]
  exact ⟨(joinBytes_toNat ..).trans (Nat.add_comm ..), BitVec.toNat_add .., hb, hu, hflags, rfl, rfl, rfl, rfl, rfl,
    SameMemory.keepsMemory ⟨rfl, rfl, rfl, rfl, rfl⟩, rfl, rfl, rfl, ⟨rfl, rfl, rfl, rfl, rfl, rfl, rfl, rfl⟩, rfl⟩

/-! ### Definitions that run nothing -/

/-- A mode of one byte resolves to nothing: no fetch, no address, no cross bit (R85, R86, R194). -/
theorem resolveMode_of_length_one {m : Mode} (h : m.length = 1) (s : State) : resolveMode m s = ⟨0, false, s⟩ := by
  cases m with
  | imp | acc | unk => rfl
  | _ => cases h

/-- NOP and the sentinel have no behaviour, and are no branch (R191, R194). -/
theorem execute_idle {m : Mnemonic} (h : m = .nop ∨ m = .unknown) (mode : Mode) (r : Resolved) :
    execute m mode r = (r.state, false) := by
  rcases h with rfl | rfl <;> rfl

/-- NOP or the sentinel in one byte without a penalty is its base cost and nothing else (R99). -/
theorem runDefinition_idle {d : InstructionDef} (hm : d.mnemonic = .nop ∨ d.mnemonic = .unknown)
    (hlength : d.mode.length = 1) (hpenalty : d.penalty = .none) (s : State) :
    runDefinition d s = s.addCycles d.baseCycles := by
  have hcost : d.cost s.config.branchCrossExtra false false = d.baseCycles := by
    rw [cost_untaken_eq, hpenalty, if_neg nofun, Nat.add_zero]
  simp only [runDefinition, resolveMode_of_length_one hlength, execute_idle hm, hcost]

/-- The definition of NOP's byte, and of an unknown one (R67, R191, R194). -/
theorem defaultDefinition_idle {op : Byte} (h : op = 0xEA ∨ op ∈ unknownOpcodes) :
    (defaultDefinition op).mnemonic = (if op = 0xEA then .nop else .unknown) ∧ (defaultDefinition op).mode.length = 1 ∧
      (defaultDefinition op).penalty = .none ∧ (defaultDefinition op).baseCycles = 2 := by
  rcases h with rfl | h
  · exact ⟨rfl, rfl, rfl, rfl⟩
  · have hop : op ≠ 0xEA := fun e => absurd (e ▸ h) (by decide)
    have hdef : defaultDefinition op = (Instr.unknown op).form.definition :=
      congrArg (fun i : Instr => i.form.definition) (assemble_unknown h 0 0)
    rw [hdef, if_neg hop]
    exact ⟨rfl, rfl, rfl, rfl⟩

/-- The text in the audit record of such a definition (R71, R100). -/
theorem text_idle {m : Mnemonic} (h : m = .nop ∨ m = .unknown) (c : Configuration) :
    c.text m = if m = .nop then "NOP" else c.sentinelMnemonic := by
  rcases h with rfl | rfl
  · exact c.text_known nofun
  · exact c.text_unknown

/-- The state past the opcode byte (R81, R82). -/
theorem opcodeFetched_eq (s : State) :
    (fetch8 (beginStep s)).2 =
      { s with
        startCycle := s.cycles
        pc := s.pc + 1
        dev := (s.route s.pc).2
        log := [opcodeFetch s]
        k := 1 } := rfl

/-- Settles O57: such a step is the opcode fetch, the base cost and the audit record. -/
theorem nopAndUnknownSteps : Obligations.NopAndUnknownSteps := by
  refine ⟨fun op s => ⟨execImplied_eq .nop (fun t => t) s, execImplied_eq (.unknown op) (fun t => t) s⟩, ?_⟩
  intro s d
  refine ⟨fun hrow hop => ?_, fun h => ⟨Configuration.row_default (by rw [h]; rfl) _, by rw [h]; rfl⟩,
    fun hm hlength hpenalty => ?_⟩
  · have hd : d = defaultDefinition (memPeek s s.pc) := Configuration.definition_noRow hrow
    rw [hd]
    exact defaultDefinition_idle hop
  · have hstep := step_eq s
    rw [runDefinition_idle hm hlength hpenalty, opcodeFetched_eq] at hstep
    exact ⟨_, hstep, rfl, rfl, rfl, rfl, rfl, rfl, rfl, rfl, rfl, rfl, rfl, route_dev s, _, rfl, rfl, rfl,
      text_idle hm s.config⟩

end Sys2Proof.Machine
end

section
/-!
PROOFS. What a step does not read (R20 to R22, R209, R210, R236): the counters and the last audit record. They are one
value, `History`, and every operation within a step commutes with putting another in its place; only the end of a
definition's run adds to it, whatever it holds.
-/

namespace Sys2Proof.Machine

/-- What a state remembers of the steps before: the counters (R20 to R22) and the audit record (R100). The log is not
part of it, since a step first clears it (R81). -/
structure History where
  cycles : Nat
  seq : Nat
  startCycle : Nat
  audit : Option InstructionAudit

/-- The state with another history. -/
def State.withHistory (s : State) (h : History) : State :=
  { s with cycles := h.cycles, seq := h.seq, startCycle := h.startCycle, audit := h.audit }

/-- The same for what the resolver gives. -/
def Resolved.withHistory (r : Resolved) (h : History) : Resolved :=
  { r with state := r.state.withHistory h }

variable (s : State) (h : History)

/-! ### The bus and the stack -/

theorem memWrite_withHistory (addr : Word) (v : Byte) :
    memWrite (s.withHistory h) addr v = (memWrite s addr v).withHistory h := by
  simp only [memWrite, State.routeWrite, apply_ite (State.withHistory · h), apply_ite (State.record · .write addr v)]
  rfl

theorem push_withHistory (v : Byte) : push (s.withHistory h) v = (push s v).withHistory h := by
  rw [push_eq, push_eq]; rfl

theorem pushWord_withHistory (w : Word) : pushWord (s.withHistory h) w = (pushWord s w).withHistory h := by
  rw [pushWord, push_withHistory, push_withHistory, pushWord]

theorem returnFromCall_withHistory : returnFromCall (s.withHistory h) = (returnFromCall s).withHistory h := by
  rw [returnFromCall, returnFromCall, pullWord_eq, pullWord_eq]; rfl

theorem returnFromInterrupt_withHistory :
    returnFromInterrupt (s.withHistory h) = (returnFromInterrupt s).withHistory h := by
  rw [returnFromInterrupt_eq, returnFromInterrupt_eq]; rfl

theorem softwareInterrupt_withHistory (ret : Word) :
    softwareInterrupt (s.withHistory h) ret = (softwareInterrupt s ret).withHistory h := by
  have hpushed : pushInterrupt (s.withHistory h) ret = (pushInterrupt s ret).withHistory h := by
    rw [pushInterrupt, pushWord_withHistory, push_withHistory]; rfl
  rw [softwareInterrupt_eq, softwareInterrupt_eq, hpushed]; rfl

/-! ### Resolver and behaviours -/

theorem resolveMode_withHistory (m : Mode) : resolveMode m (s.withHistory h) = (resolveMode m s).withHistory h := by
  cases m <;> rfl

theorem branchAt_withHistory (cond : Bool) (r : Resolved) :
    branchAt cond (r.withHistory h) = ((branchAt cond r).1.withHistory h, (branchAt cond r).2) := by
  cases cond <;> rfl

theorem modifyIn_withHistory {f : Byte → State → Byte × State}
    (hf : ∀ m t, f m (t.withHistory h) = ((f m t).1, (f m t).2.withHistory h)) (mode : Mode) (r : Resolved) :
    modifyIn mode f (r.withHistory h) = (modifyIn mode f r).withHistory h := by
  unfold modifyIn
  split
  · exact congrArg (fun p : Byte × State => p.2.setA p.1) (hf r.state.a r.state)
  · have hm := hf (memRead r.state r.addr).1 (memRead r.state r.addr).2
    exact (congrArg (fun p : Byte × State => memWrite p.2 r.addr p.1) hm).trans (memWrite_withHistory ..)

/-- No behaviour reads the history or changes it (R98), by what it does to the bus: modify, store, branch, push, pull a
return address, or only read and set registers. -/
theorem execute_withHistory (m : Mnemonic) (mode : Mode) (r : Resolved) :
    execute m mode (r.withHistory h) = ((execute m mode r).1.withHistory h, (execute m mode r).2) := by
  cases m with
  | inc | dec | asl | lsr | rol | ror => exact Prod.ext (modifyIn_withHistory h (fun _ _ => rfl) mode r) rfl
  | sta | stx | sty => exact Prod.ext (memWrite_withHistory ..) rfl
  | bcc | bcs | beq | bne | bmi | bpl | bvc | bvs => exact branchAt_withHistory h _ r
  | pha | php => exact Prod.ext (push_withHistory ..) rfl
  | jsr => exact Prod.ext (congrArg (State.setPc · r.addr) (pushWord_withHistory r.state h (r.state.pc - 1))) rfl
  | brk => exact Prod.ext (softwareInterrupt_withHistory ..) rfl
  | rts => exact Prod.ext (returnFromCall_withHistory ..) rfl
  | rti => exact Prod.ext (returnFromInterrupt_withHistory ..) rfl
  | _ => rfl

/-! ### The step -/

/-- With another history a definition run adds the same cost to the cycle counter (R99), and leaves the same state but
for the history. -/
theorem runDefinition_withHistory (d : InstructionDef) :
    runDefinition d (s.withHistory h) =
      (runDefinition d s).withHistory { h with cycles := h.cycles + ((runDefinition d s).cycles - s.cycles) } := by
  rw [runDefinition_cycles, Nat.add_sub_cancel_left]
  unfold runDefinition
  rw [resolveMode_withHistory]
  dsimp only
  rw [execute_withHistory]
  rfl

/-- Settles O20: once the log is cleared and the opcode fetched, the two states differ in their history alone. -/
theorem countersAreInvisible : Obligations.CountersAreInvisible := by
  intro s t c q d k l au hstep
  rw [step_eq] at hstep ⊢
  cases hstep
  have hrun := runDefinition_withHistory (fetch8 (beginStep s)).2 ⟨c, q, c, au⟩ (definitionAtPc s)
  exact ⟨_, congrArg (fun u => Host.Outcome.next (endStep (memPeek s s.pc) (definitionAtPc s).mnemonic u)) hrun⟩

end Sys2Proof.Machine
end

section
/-!
PROOFS. Reset, construction and the invariant (R27, R220 to R225). `Reset` writes no field of the invariant but `P`,
`cycles` and `seq`, so it keeps the rest of it; what construction builds has the recorder and the counters of `State.reset`
and memories loaded from buffers.
-/

namespace Sys2Proof.Machine

/-! ### What `Reset` writes -/

/-- Two bytes as a little-endian word, in numbers (R7, R220). -/
theorem joinBytes_eq_ofNat (hi lo : Byte) : joinBytes hi lo = BitVec.ofNat 16 (lo.toNat + 256 * hi.toNat) := by
  rw [Nat.add_comm, ← joinBytes_toNat, BitVec.ofNat_toNat, BitVec.setWidth_eq]

/-- Settles O35: the register writes are those of `State.applyReset`, its `PC` the vector's two bytes in numbers. -/
theorem resetWritesAndKeeps : Obligations.ResetWritesAndKeeps := by
  intro s
  have hvector : BitVec.ofNat 16 ((memPeek s 0xFFFC).toNat + 256 * (memPeek s 0xFFFD).toNat) = s.applyReset.pc :=
    (joinBytes_eq_ofNat ..).symm
  constructor
  · rw [hvector]; rfl
  · intro hconfig
    rw [applyReset_sp, hconfig]; rfl

/-! ### The invariant -/

/-- Settles O17: the memories and the recorder of `State.reset` are empty, and its counters are those of `Reset`. -/
theorem invAtReset : Obligations.InvAtReset where
  unused := by decide
  count := rfl
  offsets := rfl
  ramForm := rfl
  ramSize := rfl
  romForm := rfl
  romSize := rfl
  romSupported _ := rfl
  window := rfl
  config := rfl
  cycles := le_rfl

/-- `Reset` sets the unused bit with the rest of `P`, and starts the counters where the bound on them is met (R220). -/
theorem Inv.applyReset {s : State} (hs : Inv s) : Inv s.applyReset :=
  { hs with
    unused := invAtReset.unused
    cycles := le_rfl }

/-- A buffer loaded into memory lists no cell beyond its end. -/
theorem Memory.within_ofBytes (bs : List Byte) : (Memory.ofBytes bs).within bs.length = true := by
  have := Memory.within_ofBytesFrom 0 bs
  rwa [Nat.zero_add] at this

/-- What construction builds from an accepted launch meets the invariant before its one `Reset` (R223, R224): the
memories as loaded, the parameters as accepted, the rest as in `State.reset`. -/
theorem Launch.built_inv {l : Launch} (hwf : l.wellFormed = true) : Inv l.built :=
  have ⟨hrom, hram, hconfig, hwindow⟩ := l.wellFormed_iff.mp hwf
  { invAtReset with
    ramForm := Memory.wf_ofBytes l.ramInit
    ramSize := hram ▸ Memory.within_ofBytes l.ramInit
    romForm := Memory.wf_ofBytes l.rom
    romSize := Memory.within_ofBytes l.rom
    romSupported := fun hmap => (supportedRomLength_iff _).mpr (hrom hmap)
    window := List.all_eq_true.mpr fun w hw => (windowAddr_iff w).mpr (hwindow w hw)
    config := hconfig }

/-- Settles O18: a launch state is a built state after `Reset`, which keeps the invariant. -/
theorem launchAndResetGiveInv : Obligations.LaunchAndResetGiveInv := by
  refine ⟨fun l s hlaunch => ?_, fun s => Inv.applyReset⟩
  obtain ⟨hwf, rfl⟩ := launch_eq_some_iff.mp hlaunch
  exact (Launch.built_inv hwf).applyReset

end Sys2Proof.Machine
end
